-- ==== Sys2Proof/Word.lean ====
section
/-!
DEFINITION. The fixed-width words of the block: bytes, 16-bit counts and 7-bit bus addresses (spec/00_scope.md R9,
spec/20_memory.md R58).
-/

namespace Sys2Proof

/-- A `u8` (R9): a register number, a data byte, a prescale value. -/
abbrev Byte := BitVec 8

/-- A `u16` (R9): an on-count, an off-count, an entry of the desired-output table. -/
abbrev Count := BitVec 16

/-- A 7-bit bus device address (R58, `BUS_ADDR_BITS` of R7). -/
abbrev BusAddr := BitVec 7

end Sys2Proof
end

