-- ==== Sys2Proof/Config.lean ====
section
/-!
DEFINITION. What is fixed for the machine: the constants of spec/00_scope.md R7, the open parameters of R8 with their
constraints, the vocabulary of the external CANopen stack (spec/10_state.md R26 to R28), and the free values the spec calls
draws. A free value is an opaque constant without a body, so no proof can rest on what it is.
-/

namespace Sys2Proof

/-- The run state of the external stack (R26); no numeric code exists (decision D34). -/
inductive RunState
  | init
  | preOperational
  | operational
  | stopped
deriving DecidableEq, Repr, Inhabited

/-- A CAN frame is opaque to the block (R81 `LOOP_DISPATCH`): it is only handed on, so a number that names it is all the
model keeps. -/
abbrev Frame := Nat

namespace Config

/-! ### Constants the source gives (R7) -/

/-- `OSC_HZ`: the reference clock of the prescale formula. -/
abbrev oscHz : Nat := 25000000
/-- `STEPS`: counts per PWM period. -/
abbrev steps : Nat := 4096
/-- `CORR`: the oscillator correction factor, "not a tunable". -/
abbrev corr : Rat := 9 / 10
/-- `PRESCALE_MAX`. -/
abbrev prescaleMax : Nat := 255
/-- `N_RESERVED`: channel indices reserved. -/
abbrev nReserved : Nat := 32
/-- `N_WIRED`: channels physically wired. -/
abbrev nWired : Nat := 16
/-- `STRIDE`: registers per channel block. -/
abbrev stride : Nat := 4
/-- `MASK12`. -/
abbrev mask12 : Count := 0x0FFF
/-- `SLEEP_BIT`: bit 4 of the mode register. -/
abbrev sleepBit : Byte := 0x10
/-- `AI_RESTART`: bits 5 and 7 of the mode register. -/
abbrev aiRestart : Byte := 0xA0
/-- `OSC_WAIT_MS`: the least oscillator wait. -/
abbrev oscWaitMs : Nat := 5
/-- `TARGET_FREQ_HZ`: the frequency startup programs. -/
abbrev targetFreqHz : Nat := 1000
/-- `CYCLE_US`: the timer period in microseconds. -/
abbrev cycleUs : Nat := 1000
/-- `TIMER_DIV`: the timer clock prescaler. -/
abbrev timerDiv : Nat := 64
/-- `DIAG_INDEX`: the diagnostic object, "conventionally" the error register. -/
abbrev diagIndex : Nat := 0x1001
/-- `BUS_ADDR_BITS`. -/
abbrev busAddrBits : Nat := 7
/-- `TABLE_LEN`, decided: `N_RESERVED` (R8, decision D13). -/
abbrev tableLen : Nat := 32

end Config

/-- Which stack quantity feeds the error-code input (`ERROR_SOURCE` of R8; the two readings of 90_conflicts.md C8). The
block's rules are the same under either. -/
inductive ErrorSource
  /-- The access result of reading the diagnostic object. -/
  | accessResult
  /-- The value read from the diagnostic object. -/
  | objectValue
deriving DecidableEq, Repr, Inhabited

/-- The open parameters of R8. Each is a plain number here, so that a set that breaks a constraint can be written down and
refused (`PARAM_CONSTRAINT`, R52 and R202). -/
structure Params where
  chipAddr         : Nat
  modeReg          : Nat
  prescaleReg      : Nat
  channelBase      : Nat
  fCpu             : Nat
  timerWidth       : Nat
  diagSubindex     : Nat
  outputTableIndex : Nat
  errorSource      : ErrorSource
  initRunState     : RunState
  nodeId           : Nat
deriving DecidableEq, Repr, Inhabited

/-- The parameters that R8 constrains. -/
inductive ParamName
  | chipAddr
  | modeReg
  | prescaleReg
  | channelBase
  | fCpu
  | timerWidth
deriving DecidableEq, Repr

namespace Params

/-- R205: `compareValue = F_CPU * CYCLE_US / (TIMER_DIV * 10^6) - 1`, the period taken in seconds (90_conflicts.md C9). -/
def timerCompareValue (p : Params) : Nat :=
  p.fCpu * Config.cycleUs / (Config.timerDiv * 1000000) - 1

/-- R8, R205: the compare value is a non-negative integer. -/
def compareValueIsNatural (p : Params) : Bool :=
  p.fCpu * Config.cycleUs % (Config.timerDiv * 1000000) == 0 &&
    decide (1 ≤ p.fCpu * Config.cycleUs / (Config.timerDiv * 1000000))

/-- R8: register number `r` lies in the channel window `CHANNEL_BASE .. CHANNEL_BASE+63`. -/
def inChannelWindow (p : Params) (r : Nat) : Bool :=
  decide (p.channelBase ≤ r) && decide (r < p.channelBase + Config.stride * Config.nWired)

/-- The first constraint of R8 (in R8's order) that the set breaks, if any. -/
def violation (p : Params) : Option ParamName :=
  if 127 < p.chipAddr then some .chipAddr
  else if 255 < p.modeReg then some .modeReg
  else if 255 < p.prescaleReg ∨ p.prescaleReg = p.modeReg then some .prescaleReg
  else if 255 < p.channelBase + Config.stride * Config.nWired - 1 ∨ p.inChannelWindow p.modeReg = true ∨
      p.inChannelWindow p.prescaleReg = true then some .channelBase
  else if p.compareValueIsNatural = false then some .fCpu
  else if 2 ^ p.timerWidth ≤ p.timerCompareValue then some .timerWidth
  else none

/-- The set meets every constraint of R8. -/
def ok (p : Params) : Bool := p.violation.isNone

end Params

/-- A parameter set together with the fact that it meets R8. The default values are the test instantiation of
spec/95_test_vectors.md section 0 and serve only to show that the type is inhabited: no statement can see them through the
opaque `Config.params`. -/
structure AdmittedParams where
  set : Params :=
    { chipAddr := 0x40, modeReg := 0x00, prescaleReg := 0xFE, channelBase := 0x06, fCpu := 16000000, timerWidth := 16,
      diagSubindex := 0, outputTableIndex := 0, errorSource := .accessResult, initRunState := .operational, nodeId := 0 }
  admitted : set.ok = true := by decide
deriving DecidableEq, Repr, Inhabited

/-- One change the host makes to an input (R93 `host:` lines, R179). -/
inductive HostChange
  | runState (r : RunState)
  | errorCode (n : Nat)
  | desired (i : Fin Config.tableLen) (v : Count)
deriving DecidableEq, Repr

/-- How many ticks fall between the steps of one pass of the main loop (R184 "ticks able to fall between any two of its steps"). In a
pass with no cycle due there is no step between `Top` and `BusCheck`, and only the first and the last count. -/
structure TickGaps where
  afterTop      : Nat
  afterClear    : Nat
  afterPolicy   : Nat
  afterBusCheck : Nat
deriving DecidableEq, Repr, Inhabited

namespace Config

/-! ### Open parameters and free values -/

/-- The parameter set of this machine: OPEN in R8, any set that meets R8's constraints. -/
opaque params : AdmittedParams

/-- The chip's register contents at power-on (R39 "unspecified (draw)", 91_not_in_source.md N4). -/
opaque chipPowerOn : Nat → Byte

/-- The inputs at reset, "unspecified to the block until the stack sets them" (R39). -/
opaque runStateAtReset : RunState
@[inherit_doc runStateAtReset] opaque errorCodeAtReset : Nat
@[inherit_doc runStateAtReset] opaque desiredAtReset : Nat → Count
@[inherit_doc runStateAtReset] opaque nodeIdAtReset : Nat

/-- The timer's compare register before startup configures it; the spec states no value. -/
opaque timerCompareAtReset : Nat

/-- The byte the `n`-th bus read returns (R14, R115: "a draw"). -/
opaque freeByte : Nat → Byte
/-- The `n`-th answer of `ReceiveFrame` (R178: "a draw"). -/
opaque freeFrame : Nat → Option Frame
/-- What the stack changes at the `n`-th chance it has (R179: "a draw"). -/
opaque freeChanges : Nat → List HostChange
/-- Whether the `n`-th data byte lands at the chip (R54: "a draw"). -/
opaque freeLanding : Nat → Bool
/-- Whether the `n`-th unscheduled move is a tick (R60, R206, I13: "every interleaving admitted"). -/
opaque freeTick : Nat → Bool
/-- The ticks that fall inside the `n`-th pass that is requested whole (R184, I13). -/
opaque freeGaps : Nat → TickGaps

end Config

end Sys2Proof
end

