-- ==== Sys2Proof/Syntax.lean ====
section
/-!
DEFINITION. The operations of the block as syntax: one constructor per row of spec/opcode_table.json, in the table's order,
with the operands of spec/30_encoding.md R81 (typed operations) and R82, R83 (bus frames); and the encoded forms they are read
from.
-/

namespace Sys2Proof

/-- The 18 rows of spec/opcode_table.json.

A channel and a frequency are rationals, because R89 refuses a negative or non-integer one by name (`OPERAND_TYPE`); the other
operands are naturals, of which R89 refuses those that are too large. A bus frame carries the bytes of its row and the 7-bit
device address that the transport carries beside them (R82). -/
inductive Instr
  /-- `COMPUTE_PRESCALE` (R111). -/
  | computePrescale (freqHz : Rat)
  /-- `SET_FREQUENCY` (R112). -/
  | setFrequency (address : Nat) (freqHz : Rat)
  /-- `WRITE_REGISTER` (R113). -/
  | writeRegister (address reg value : Nat)
  /-- `SET_CHANNEL_OUTPUT` (R114). -/
  | setChannelOutput (address : Nat) (channel : Rat) (onCount offCount : Nat)
  /-- `READ_REGISTER` (R115). -/
  | readRegister (address reg : Nat)
  /-- `POLICY_EVAL` (R147). -/
  | policyEval
  /-- `TIMER_TICK` (R171). -/
  | timerTick
  /-- `LOOP_TOP` (R176). -/
  | loopTop
  /-- `LOOP_CLEAR` (R177). -/
  | loopClear
  /-- `LOOP_POLICY` (R181). -/
  | loopPolicy
  /-- `LOOP_BUSCHECK` (R178). -/
  | loopBusCheck
  /-- `LOOP_DISPATCH` (R179). -/
  | loopDispatch (frame : Frame)
  /-- `LOOP_SLEEP` (R180). -/
  | loopSleep
  /-- `STARTUP` (R231). -/
  | startup
  /-- `BUS_WRITE_REG`, `Write(a, [R, V])` (R82). -/
  | busWriteReg (address : BusAddr) (reg value : Byte)
  /-- `BUS_CHANNEL_BURST`, `Write(a, [R, a, b, c, d])` (R82). -/
  | busChannelBurst (address : BusAddr) (reg onLow onHigh offLow offHigh : Byte)
  /-- `BUS_POLICY_BURST`, `Write(a, [R, 0, 0, c, d])` with `d` below 16 (R88). -/
  | busPolicyBurst (address : BusAddr) (reg offLow : Byte) (offHigh : BitVec 4)
  /-- `BUS_READ_REG`, `Read(a, R, V)` (R83). -/
  | busReadReg (address : BusAddr) (reg value : Byte)
deriving DecidableEq, Repr

/-- An operation as it reaches the block. The spec gives a typed operation no bit pattern (R80); its one written form is the
call syntax of R93, a line of ASCII bytes. A bus frame is what the transport delimits (R91): a kind, an address and a byte
list. -/
inductive Packet
  /-- A line in the syntax of R93. -/
  | line (text : List Byte)
  /-- A write transaction: the register number first, then the data (R82). -/
  | busWrite (address : BusAddr) (bytes : List Byte)
  /-- A read transaction: the register number and the byte that came back (R83). -/
  | busRead (address : BusAddr) (bytes : List Byte)
deriving DecidableEq, Repr

/-- A bus event (R14, R12). -/
inductive BusEvent
  /-- One write transaction. -/
  | write (address : BusAddr) (bytes : List Byte)
  /-- One read of register `reg`, which returned `value`. -/
  | read (address : BusAddr) (reg value : Byte)
  /-- `Wait(>= ms)`: no byte moves (R12). -/
  | delay (ms : Nat)
deriving DecidableEq, Repr

end Sys2Proof
end

