-- ==== Sys2Proof/Machine/Bytes.lean ====
section
/-!
DEFINITION. Byte order and register numbers (spec/20_memory.md R50, spec/30_encoding.md R86, R87, R91): how a count becomes
bytes on the bus and back, and which register a channel's block starts at. The decoder, the encoder and the machine all use
these.
-/

namespace Sys2Proof

/-- `lo8(v) = v[7:0]` (R10). -/
def lo8 (v : Count) : Byte := v.extractLsb' 0 8

/-- `hi8(v) = v[15:8]` (R10). -/
def hi8 (v : Count) : Byte := v.extractLsb' 8 8

/-- `LE_2(v) = [lo8(v), hi8(v)]`: least significant byte first (R50). -/
def le2 (v : Count) : List Byte := [lo8 v, hi8 v]

/-- The count whose bytes are `lo`, `hi`: `lo + 256*hi` (R91). -/
def ofLe2 (lo hi : Byte) : Count := hi ++ lo

/-- The four data bytes of a channel burst: `onLow, onHigh, offLow, offHigh` (R82, R87). -/
def countBytes (on off : Count) : List Byte := le2 on ++ le2 off

/-- `chanReg(channel) = CHANNEL_BASE + 4*channel` (R86), as the byte that leads a burst. -/
def chanReg (p : Params) (channel : Nat) : Byte := BitVec.ofNat 8 (p.channelBase + Config.stride * channel)

/-- The channel whose block register `r` starts, if any (the conditions of R91 on byte 0 of a burst). -/
def channelOfReg (p : Params) (r : Byte) : Option Nat :=
  if p.channelBase ≤ r.toNat ∧ (r.toNat - p.channelBase) % Config.stride = 0 ∧
      (r.toNat - p.channelBase) / Config.stride < Config.nWired then
    some ((r.toNat - p.channelBase) / Config.stride)
  else none

/-- The parameters as the bus carries them. -/
def Params.chip (p : Params) : BusAddr := BitVec.ofNat 7 p.chipAddr
@[inherit_doc Params.chip] def Params.mode (p : Params) : Byte := BitVec.ofNat 8 p.modeReg
@[inherit_doc Params.chip] def Params.prescale (p : Params) : Byte := BitVec.ofNat 8 p.prescaleReg

end Sys2Proof
end

