-- ==== Sys2Proof/WellFormed.lean ====
section
/-!
DEFINITION. Which operations are well formed: every operand in the domain of spec/30_encoding.md R81, and a 5-byte frame
starting at a channel register (R91, spec/40_pwm_driver.md R118). A term that is not well formed still decodes; what it does is
R89's refusal by name.
-/

namespace Sys2Proof

/-- A rational that is a natural number: the domain of a channel (R81). -/
def isNatural (q : Rat) : Bool := q.den == 1 && decide (0 ≤ q.num)

/-- An integer that is at least 1: the domain of a frequency (R81). -/
def isFrequency (q : Rat) : Bool := q.den == 1 && decide (1 ≤ q.num)

/-- R81: `address` is in 0..127. -/
def isAddress (a : Nat) : Bool := decide (a ≤ 127)

/-- R81: a `u8`. -/
def isByte (v : Nat) : Bool := decide (v ≤ 255)

/-- R81: a `u16`. -/
def isCount (v : Nat) : Bool := decide (v ≤ 65535)

/-- R91: `r` is the first register of a wired channel's block. -/
def Params.isChannelReg (p : Params) (r : Byte) : Bool := (channelOfReg p r).isSome

/-- Every operand is in the domain R81 gives it (for a burst frame: R91's conditions on byte 0). -/
def Instr.wellFormed (p : Params) : Instr → Bool
  | .computePrescale f => isFrequency f
  | .setFrequency a f => isAddress a && isFrequency f
  | .writeRegister a r v => isAddress a && isByte r && isByte v
  | .setChannelOutput a c on off => isAddress a && isNatural c && isCount on && isCount off
  | .readRegister a r => isAddress a && isByte r
  | .policyEval => true
  | .timerTick => true
  | .loopTop => true
  | .loopClear => true
  | .loopPolicy => true
  | .loopBusCheck => true
  | .loopDispatch _ => true
  | .loopSleep => true
  | .startup => true
  | .busWriteReg _ _ _ => true
  | .busChannelBurst _ r _ _ _ _ => p.isChannelReg r
  | .busPolicyBurst _ r _ _ => p.isChannelReg r
  | .busReadReg _ _ _ => true

end Sys2Proof
end

