-- ==== Sys2Proof/Decode.lean ====
section
/-!
DEFINITION. From bytes to operations and back. Three decoders, each total and refusing by name:

* `decodeLine`: a line in the call syntax of spec/30_encoding.md R93, the only written form a typed operation has (R80);
* `readPacket`: a packet (a line, or a bus frame of R82 and R83), and `decode`: the one operation it stands for;
* `classify`: the reading of the bus history that R91 defines.

After them the encoder `encode`, written from the same rules, and the table-word form the host asks about.
-/

namespace Sys2Proof

/-! ### Characters and tokens (R9, R93) -/

/-- Why a packet is no operation. -/
inductive DecodeError
  /-- A character that no rule of R93 uses. -/
  | badCharacter (c : Byte)
  /-- A number that breaks off or runs into a letter. -/
  | badNumber
  /-- The name is none of R93's. -/
  | unknownName (name : List Byte)
  /-- The operands are not those of R81 for the name. -/
  | badOperands
  /-- The line is no operation of R81: a composite, a host change, or empty (R93). -/
  | notOneOperation
  /-- A frame of a length the block does not use (R82, R83). -/
  | frameLength (n : Nat)
deriving DecidableEq, Repr

/-- The ASCII bytes of a list of characters. -/
def ascii (cs : List Char) : List Byte := cs.map fun c => BitVec.ofNat 8 c.toNat

/-- What the syntax of R93 is made of. -/
inductive Token
  | word (name : List Byte)
  | number (n : Nat)
  | lparen
  | rparen
  | comma
  | minus
  | slash
  | colon
  | equals
  | lbracket
  | rbracket
deriving DecidableEq, Repr

def isDigit (c : Byte) : Bool := decide (48 ≤ c.toNat) && decide (c.toNat ≤ 57)

def isLetter (c : Byte) : Bool :=
  (decide (65 ≤ c.toNat) && decide (c.toNat ≤ 90)) || (decide (97 ≤ c.toNat) && decide (c.toNat ≤ 122))

/-- The value of a hexadecimal digit. -/
def hexValue (c : Byte) : Option Nat :=
  if isDigit c then some (c.toNat - 48)
  else if 65 ≤ c.toNat ∧ c.toNat ≤ 70 then some (c.toNat - 55)
  else if 97 ≤ c.toNat ∧ c.toNat ≤ 102 then some (c.toNat - 87)
  else none

/-- The one-character tokens. -/
def punctuation (c : Byte) : Option Token :=
  if c.toNat = 40 then some .lparen
  else if c.toNat = 41 then some .rparen
  else if c.toNat = 44 then some .comma
  else if c.toNat = 45 then some .minus
  else if c.toNat = 47 then some .slash
  else if c.toNat = 58 then some .colon
  else if c.toNat = 61 then some .equals
  else if c.toNat = 91 then some .lbracket
  else if c.toNat = 93 then some .rbracket
  else none

/-- Space, tab, line feed, carriage return. -/
def isBlank (c : Byte) : Bool := c.toNat == 32 || c.toNat == 9 || c.toNat == 10 || c.toNat == 13

/-- Where the lexer stands. -/
inductive LexMode
  | idle
  /-- Inside a name; its bytes so far, last first. -/
  | inWord (rev : List Byte)
  /-- After a leading `0`, which may turn out to begin `0x`. -/
  | afterZero
  | inDecimal (n : Nat)
  /-- After `0x`, before its first digit. -/
  | hexStart
  | inHex (n : Nat)
  /-- After `;`, to the end of the line (R93). -/
  | inComment
deriving DecidableEq, Repr

/-- A character read with no token open; `out` is the token that has just been closed. -/
def lexFresh (out : List Token) (c : Byte) : Except DecodeError (List Token × LexMode) :=
  if isBlank c then .ok (out, .idle)
  else if c.toNat = 59 then .ok (out, .inComment)
  else if isLetter c then .ok (out, .inWord [c])
  else if c.toNat = 48 then .ok (out, .afterZero)
  else if isDigit c then .ok (out, .inDecimal (c.toNat - 48))
  else match punctuation c with
    | some t => .ok (out ++ [t], .idle)
    | none => .error (.badCharacter c)

/-- A character read just after the number `n`: a letter there is an error. -/
def lexAfterNumber (n : Nat) (c : Byte) : Except DecodeError (List Token × LexMode) :=
  if isLetter c then .error .badNumber else lexFresh [.number n] c

/-- One character: the tokens it completes and the mode it leads to. -/
def lexStep (m : LexMode) (c : Byte) : Except DecodeError (List Token × LexMode) :=
  match m with
  | .idle => lexFresh [] c
  | .inWord rev =>
    if isLetter c || isDigit c then .ok ([], .inWord (c :: rev)) else lexFresh [.word rev.reverse] c
  | .afterZero =>
    if c.toNat = 120 then .ok ([], .hexStart)
    else if isDigit c then .ok ([], .inDecimal (c.toNat - 48))
    else lexAfterNumber 0 c
  | .inDecimal n => if isDigit c then .ok ([], .inDecimal (10 * n + (c.toNat - 48))) else lexAfterNumber n c
  | .hexStart =>
    match hexValue c with
    | some d => .ok ([], .inHex d)
    | none => .error .badNumber
  | .inHex n =>
    match hexValue c with
    | some d => .ok ([], .inHex (16 * n + d))
    | none => lexAfterNumber n c
  | .inComment => if c.toNat = 10 then .ok ([], .idle) else .ok ([], .inComment)

/-- The token still open when the text ends. -/
def lexEnd : LexMode → Except DecodeError (List Token)
  | .idle => .ok []
  | .inWord rev => .ok [.word rev.reverse]
  | .afterZero => .ok [.number 0]
  | .inDecimal n => .ok [.number n]
  | .hexStart => .error .badNumber
  | .inHex n => .ok [.number n]
  | .inComment => .ok []

/-- The tokens of a text, read from mode `m`. -/
def lexFrom : LexMode → List Byte → Except DecodeError (List Token)
  | m, [] => lexEnd m
  | m, c :: cs =>
    match lexStep m c with
    | .error e => .error e
    | .ok (out, m') =>
      match lexFrom m' cs with
      | .error e => .error e
      | .ok ts => .ok (out ++ ts)

/-! ### Names (R93, R111, R147) -/

/-- The names of the typed operations. R93 gives all but two; `computePrescale` is the name of R111's pseudocode and
`policyEval` that of R147's (R93's `policy` is the main-loop step, as the programs of 95_test_vectors.md use it). -/
inductive OpName
  | computePrescale
  | setFrequency
  | writeRegister
  | setChannelOutput
  | readRegister
  | policyEval
  | tick
  | top
  | clear
  | policy
  | buscheck
  | dispatch
  | sleep
  | startup
deriving DecidableEq, Repr

namespace OpName

def all : List OpName :=
  [computePrescale, setFrequency, writeRegister, setChannelOutput, readRegister, policyEval, tick, top, clear, policy,
   buscheck, dispatch, sleep, startup]

/-- The spelling of a name. -/
def spelling : OpName → List Char
  | computePrescale => ['c', 'o', 'm', 'p', 'u', 't', 'e', 'P', 'r', 'e', 's', 'c', 'a', 'l', 'e']
  | setFrequency => ['s', 'e', 't', 'F', 'r', 'e', 'q', 'u', 'e', 'n', 'c', 'y']
  | writeRegister => ['w', 'r', 'i', 't', 'e', 'R', 'e', 'g', 'i', 's', 't', 'e', 'r']
  | setChannelOutput => ['s', 'e', 't', 'C', 'h', 'a', 'n', 'n', 'e', 'l', 'O', 'u', 't', 'p', 'u', 't']
  | readRegister => ['r', 'e', 'a', 'd', 'R', 'e', 'g', 'i', 's', 't', 'e', 'r']
  | policyEval => ['p', 'o', 'l', 'i', 'c', 'y', 'E', 'v', 'a', 'l']
  | tick => ['t', 'i', 'c', 'k']
  | top => ['t', 'o', 'p']
  | clear => ['c', 'l', 'e', 'a', 'r']
  | policy => ['p', 'o', 'l', 'i', 'c', 'y']
  | buscheck => ['b', 'u', 's', 'c', 'h', 'e', 'c', 'k']
  | dispatch => ['d', 'i', 's', 'p', 'a', 't', 'c', 'h']
  | sleep => ['s', 'l', 'e', 'e', 'p']
  | startup => ['s', 't', 'a', 'r', 't', 'u', 'p']

def bytes (k : OpName) : List Byte := ascii k.spelling

/-- The operation a name stands for. -/
def ofBytes (w : List Byte) : Option OpName := all.find? fun k => k.bytes == w

end OpName

/-! ### Operands (R81, R93) -/

/-- An operand as written: a number, or the name of a frame (`F1`, `F2` in 95_test_vectors.md). -/
inductive Operand
  | quantity (q : Rat)
  | frame (f : Frame)
deriving DecidableEq, Repr

/-- The decimal number a list of digits spells, last digit last. -/
def decimalValue : Nat → List Byte → Option Nat
  | n, [] => some n
  | n, c :: cs => if isDigit c then decimalValue (10 * n + (c.toNat - 48)) cs else none

/-- `F` and a decimal number name a frame. -/
def frameName : List Byte → Option Frame
  | c :: d :: ds => if c.toNat = 70 then decimalValue 0 (d :: ds) else none
  | _ => none

/-- One operand: `n`, `-n`, `n/d`, `-n/d` or a frame's name. A fraction is how 95_test_vectors.md writes a non-integer
frequency (L2-E row E12). -/
def operand : List Token → Option Operand
  | [.number n] => some (.quantity (n : Rat))
  | [.minus, .number n] => some (.quantity (-(n : Rat)))
  | [.number n, .slash, .number d] => if d = 0 then none else some (.quantity (mkRat n d))
  | [.minus, .number n, .slash, .number d] => if d = 0 then none else some (.quantity (mkRat (-(n : Int)) d))
  | [.word w] => (frameName w).map .frame
  | _ => none

/-- The pieces between the commas. -/
def splitCommas : List Token → List (List Token)
  | [] => [[]]
  | .comma :: ts => [] :: splitCommas ts
  | t :: ts =>
    match splitCommas ts with
    | [] => [[t]]
    | p :: ps => (t :: p) :: ps

/-- Every piece as an operand, or none. -/
def operandsOf : List (List Token) → Option (List Operand)
  | [] => some []
  | p :: ps =>
    match operand p, operandsOf ps with
    | some o, some os => some (o :: os)
    | _, _ => none

/-- The operand list after a name: nothing, or a parenthesised list. -/
def operandList : List Token → Option (List Operand)
  | [] => some []
  | .lparen :: ts =>
    match ts.reverse with
    | .rparen :: inner => operandsOf (splitCommas inner.reverse)
    | _ => none
  | _ => none

/-- An operand that is a natural number. -/
def Operand.nat : Operand → Option Nat
  | .quantity q => if isNatural q then some q.num.toNat else none
  | .frame _ => none

/-- The operation a name and its operands stand for (R81). -/
def build (k : OpName) (os : List Operand) : Option Instr :=
  match k, os with
  | .computePrescale, [.quantity f] => some (.computePrescale f)
  | .setFrequency, [a, .quantity f] => a.nat.map fun a => .setFrequency a f
  | .writeRegister, [a, r, v] =>
    match a.nat, r.nat, v.nat with
    | some a, some r, some v => some (.writeRegister a r v)
    | _, _, _ => none
  | .setChannelOutput, [a, .quantity c, on, off] =>
    match a.nat, on.nat, off.nat with
    | some a, some on, some off => some (.setChannelOutput a c on off)
    | _, _, _ => none
  | .readRegister, [a, r] =>
    match a.nat, r.nat with
    | some a, some r => some (.readRegister a r)
    | _, _ => none
  | .policyEval, [] => some .policyEval
  | .tick, [] => some .timerTick
  | .top, [] => some .loopTop
  | .clear, [] => some .loopClear
  | .policy, [] => some .loopPolicy
  | .buscheck, [] => some .loopBusCheck
  | .dispatch, [.frame f] => some (.loopDispatch f)
  | .sleep, [] => some .loopSleep
  | .startup, [] => some .startup
  | _, _ => none

/-! ### Lines (R93) -/

/-- What a line of R93 can be. -/
inductive Line
  | operation (i : Instr)
  /-- `iteration`: one full main-loop iteration, a composite (R184, R94). -/
  | iteration
  /-- `host: ...`: a change the host makes inside a dispatch or a startup. -/
  | host (c : HostChange)
  /-- Nothing, or only a comment. -/
  | nothing
deriving DecidableEq, Repr

def iterationWord : List Byte := ascii ['i', 't', 'e', 'r', 'a', 't', 'i', 'o', 'n']
def hostWord : List Byte := ascii ['h', 'o', 's', 't']
def runStateWord : List Byte := ascii ['r', 'u', 'n', 'S', 't', 'a', 't', 'e']
def errorCodeWord : List Byte := ascii ['e', 'r', 'r', 'o', 'r', 'C', 'o', 'd', 'e']
def desiredWord : List Byte := ascii ['d', 'e', 's', 'i', 'r', 'e', 'd']

/-- The names of the run states (R26). -/
def RunState.spelling : RunState → List Char
  | .init => ['I', 'n', 'i', 't']
  | .preOperational => ['P', 'r', 'e', 'O', 'p', 'e', 'r', 'a', 't', 'i', 'o', 'n', 'a', 'l']
  | .operational => ['O', 'p', 'e', 'r', 'a', 't', 'i', 'o', 'n', 'a', 'l']
  | .stopped => ['S', 't', 'o', 'p', 'p', 'e', 'd']

def RunState.ofBytes (w : List Byte) : Option RunState :=
  [RunState.init, .preOperational, .operational, .stopped].find? fun r => ascii r.spelling == w

/-- `runState := X`, `errorCode := n`, `desired[i] := v` (R93). -/
def hostChange : List Token → Option HostChange
  | [.word w, .colon, .equals, .word x] => if w = runStateWord then (RunState.ofBytes x).map .runState else none
  | [.word w, .colon, .equals, .number n] => if w = errorCodeWord then some (.errorCode n) else none
  | [.word w, .lbracket, .number i, .rbracket, .colon, .equals, .number v] =>
    if w = desiredWord ∧ v ≤ 65535 then
      if h : i < Config.tableLen then some (.desired ⟨i, h⟩ (BitVec.ofNat 16 v)) else none
    else none
  | _ => none

/-- A name and what follows it. -/
def namedLine (w : List Byte) (ts : List Token) : Except DecodeError Line :=
  match OpName.ofBytes w with
  | none => .error (.unknownName w)
  | some k =>
    match operandList ts with
    | none => .error .badOperands
    | some os =>
      match build k os with
      | none => .error .badOperands
      | some i => .ok (.operation i)

/-- The line a list of tokens spells. -/
def parseLine : List Token → Except DecodeError Line
  | [] => .ok .nothing
  | .word w :: ts =>
    if w = iterationWord ∧ ts = [] then .ok .iteration
    else
      match w == hostWord, ts with
      | true, .colon :: rest =>
        match hostChange rest with
        | some c => .ok (.host c)
        | none => .error .badOperands
      | _, _ => namedLine w ts
  | _ => .error .badOperands

/-- R93: a line of text. -/
def decodeLine (text : List Byte) : Except DecodeError Line :=
  match lexFrom .idle text with
  | .error e => .error e
  | .ok ts => parseLine ts

/-! ### Packets -/

/-- A 5-byte write frame: the row `BUS_POLICY_BURST` where the bytes have its shape (on-count 0, high nibble of the last byte
0), else `BUS_CHANNEL_BURST`, of which it is the subset the policy emits (R88). -/
def decodeBurst (address : BusAddr) (r a b c d : Byte) : Instr :=
  if a = 0 ∧ b = 0 ∧ d.toNat < 16 then .busPolicyBurst address r c (BitVec.ofNat 4 d.toNat)
  else .busChannelBurst address r a b c d

/-- What a packet holds: a line of R93, or the operation of a frame. -/
def readPacket : Packet → Except DecodeError Line
  | .line text => decodeLine text
  | .busWrite address [r, v] => .ok (.operation (.busWriteReg address r v))
  | .busWrite address [r, a, b, c, d] => .ok (.operation (decodeBurst address r a b c d))
  | .busWrite _ bytes => .error (.frameLength bytes.length)
  | .busRead address [r, v] => .ok (.operation (.busReadReg address r v))
  | .busRead _ bytes => .error (.frameLength bytes.length)

/-- The operation of a line that is one. -/
def Line.asOperation : Line → Except DecodeError Instr
  | .operation i => .ok i
  | .iteration => .error .notOneOperation
  | .host _ => .error .notOneOperation
  | .nothing => .error .notOneOperation

/-- The operation a packet stands for. -/
def decode (p : Packet) : Except DecodeError Instr :=
  match readPacket p with
  | .ok l => l.asOperation
  | .error e => .error e

/-! ### The encoder -/

/-- Decimal digits of `n` before `acc`, with enough fuel. -/
def decimalDigits : Nat → Nat → List Byte → List Byte
  | 0, _, acc => acc
  | fuel + 1, n, acc =>
    let acc' := BitVec.ofNat 8 (48 + n % 10) :: acc
    if n < 10 then acc' else decimalDigits fuel (n / 10) acc'

/-- A natural number in decimal (R9). -/
def encodeNat (n : Nat) : List Byte := decimalDigits (n + 1) n []

/-- A rational: `n`, `-n`, `n/d`, `-n/d`. -/
def encodeRat (q : Rat) : List Byte :=
  (if q.num < 0 then ascii ['-'] else []) ++ encodeNat q.num.natAbs ++
    (if q.den = 1 then [] else ascii ['/'] ++ encodeNat q.den)

/-- `F` and a decimal number. -/
def encodeFrame (f : Frame) : List Byte := ascii ['F'] ++ encodeNat f

/-- Operands separated by `", "`. -/
def joinOperands : List (List Byte) → List Byte
  | [] => []
  | [o] => o
  | o :: os => o ++ ascii [',', ' '] ++ joinOperands os

/-- `name(operands)` (R93). -/
def encodeCall (k : OpName) (os : List (List Byte)) : List Byte := k.bytes ++ ascii ['('] ++ joinOperands os ++ ascii [')']

/-- The packet an operation is written as. -/
def encode : Instr → Packet
  | .computePrescale f => .line (encodeCall .computePrescale [encodeRat f])
  | .setFrequency a f => .line (encodeCall .setFrequency [encodeNat a, encodeRat f])
  | .writeRegister a r v => .line (encodeCall .writeRegister [encodeNat a, encodeNat r, encodeNat v])
  | .setChannelOutput a c on off =>
    .line (encodeCall .setChannelOutput [encodeNat a, encodeRat c, encodeNat on, encodeNat off])
  | .readRegister a r => .line (encodeCall .readRegister [encodeNat a, encodeNat r])
  | .policyEval => .line OpName.policyEval.bytes
  | .timerTick => .line OpName.tick.bytes
  | .loopTop => .line OpName.top.bytes
  | .loopClear => .line OpName.clear.bytes
  | .loopPolicy => .line OpName.policy.bytes
  | .loopBusCheck => .line OpName.buscheck.bytes
  | .loopDispatch f => .line (encodeCall .dispatch [encodeFrame f])
  | .loopSleep => .line OpName.sleep.bytes
  | .startup => .line OpName.startup.bytes
  | .busWriteReg address r v => .busWrite address [r, v]
  | .busChannelBurst address r a b c d => .busWrite address [r, a, b, c, d]
  | .busPolicyBurst address r c d => .busWrite address [r, 0, 0, c, d.setWidth 8]
  | .busReadReg address r v => .busRead address [r, v]

/-- The one spelling of a frame that two rows of the table share: a `BUS_CHANNEL_BURST` whose bytes have the shape of
`BUS_POLICY_BURST` is that. -/
def Instr.canonical : Instr → Instr
  | .busChannelBurst address r a b c d => decodeBurst address r a b c d
  | i => i

/-! ### Reading the bus history (R91) -/

/-- The class R91 gives an event; a delay is "not a bus transaction" (95_test_vectors.md L2-C). -/
inductive EventClass
  | readRegister (address : BusAddr) (reg : Byte)
  | writeRegister (address : BusAddr) (reg value : Byte)
  | setChannelOutput (address : BusAddr) (channel : Nat) (onCount offCount : Count)
  | foreign
  | notATransaction
deriving DecidableEq, Repr

/-- R91. -/
def classify (p : Params) : BusEvent → EventClass
  | .read a r _ => .readRegister a r
  | .write a [r, v] => .writeRegister a r v
  | .write a [r, b1, b2, b3, b4] =>
    match channelOfReg p r with
    | some c => .setChannelOutput a c (ofLe2 b1 b2) (ofLe2 b3 b4)
    | none => .foreign
  | .write _ _ => .foreign
  | .delay _ => .notATransaction

/-! ### Words of the opcode table -/

/-- The bytes of a table word, first byte in the lowest bits. -/
def tableBytes (nbits w : Nat) : List Byte := (List.range (nbits / 8)).map fun k => BitVec.ofNat 8 (w >>> (8 * k))

/-- The packet a table word stands for: 2 or 5 bytes are a write frame (the rows of the table that have bits), addressed to
`address`, which the transport carries beside the bytes; any other number of bytes is a line of text. -/
def tablePacket (address : BusAddr) (nbits w : Nat) : Packet :=
  match tableBytes nbits w with
  | [r, v] => .busWrite address [r, v]
  | [r, a, b, c, d] => .busWrite address [r, a, b, c, d]
  | text => .line text

/-- The operation a table word stands for, on the bus address of this machine's chip. -/
def decodeTableWord (nbits w : Nat) : Option Instr := (decode (tablePacket Config.params.set.chip nbits w)).toOption

end Sys2Proof
end

