-- ==== Sys2Proof/Machine/State.lean ====
section
/-!
DEFINITION. The state of the machine as plain data: the block's record (spec/10_state.md R21), the inputs the external stack
owns (R26 to R28), the chip's registers (R30 to R33), the timer's compare register (spec/60_exceptions.md R205), the parameter
set (spec/00_scope.md R8) and the model's own fields; its value at reset (R39); and the reasons a step can stop.
-/

namespace Sys2Proof.Machine

/-- The main-loop position, the block's program counter (R24). -/
inductive Phase
  | startup
  | top
  | clear
  | policy
  | busCheck
  | dispatch (frame : Frame)
  | sleep
deriving DecidableEq, Repr

/-- An `(on, off)` pair (R25). -/
structure Pair where
  on  : Count
  off : Count
deriving DecidableEq, Repr

/-- The one PwmController instance (R34). -/
structure Controller where
  busAddress  : BusAddr
  frequencyHz : Option Nat
  prescale    : Option Byte
deriving DecidableEq, Repr

/-- The agents that take steps and so can be stopped by an outcome (R19, R203). -/
inductive Agent
  | mainLoop
  | timer
  /-- A direct caller of the driver (R81 "any caller"). -/
  | caller
deriving DecidableEq, Repr

/-- The named outcomes of R202. -/
inductive Reason
  | freqZero
  | runtimeFrequencyChange
  | addrRange
  | byteRange
  | countRange
  | operandType
  | paramConstraint
deriving DecidableEq, Repr

/-- R202, column "kind": `FREQ_ZERO` is a fault, every other outcome a refusal. -/
def Reason.isRefusal : Reason → Bool
  | .freqZero => false
  | .runtimeFrequencyChange => true
  | .addrRange => true
  | .byteRange => true
  | .countRange => true
  | .operandType => true
  | .paramConstraint => true

/-- R202, column "recorded": the operation and its operands with the agent that ran it, or the parameter. -/
inductive Cause
  | operation (i : Instr) (agent : Agent)
  | parameter (p : ParamName)
deriving DecidableEq, Repr

/-- One entry of `s.faults` (R203). -/
structure FaultRecord where
  reason : Reason
  cause  : Cause
deriving DecidableEq, Repr

/-- One move of the interleaving (R60): a tick, a step of the main loop at its phase, or a request from outside. -/
inductive Move
  | tick
  | main
  | request (p : Packet)
deriving DecidableEq, Repr

/-- The draws to come, as plain data (R14, R15, R54, R184). Where a list has run out the value is the free value of `Config` at the
count `drawn`. -/
structure Oracle where
  /-- The bytes the coming bus reads return. -/
  reads   : List Byte
  /-- The answers of the coming `ReceiveFrame`s. -/
  frames  : List (Option Frame)
  /-- What the stack changes at its coming chances. -/
  changes : List (List HostChange)
  /-- Whether the coming data bytes land at the chip. -/
  landed  : List Bool
  /-- The ticks that fall inside the coming requested iterations (R184). -/
  gaps    : List TickGaps
  /-- How many free values have been taken. -/
  drawn   : Nat
deriving DecidableEq, Repr

/-- The chip's registers: (number, byte) pairs in canonical form (`Memory.wf`). -/
abbrev Memory := List Host.Cell

end Sys2Proof.Machine

namespace Sys2Proof.Machine

/-- The whole machine. -/
@[ext]
structure State where
  /-- The parameter set (R8); no step writes it. -/
  params       : Params
  /-- The cycle-due flag (R22). -/
  cycleDue     : Bool
  /-- The main-loop position (R24). -/
  phase        : Phase
  /-- The last-applied pairs (R25). -/
  cache        : Vector Pair 32
  /-- The PwmController instance (R34). -/
  ctrl         : Controller
  /-- The bus event history, oldest first (R14, R21). -/
  bus          : List BusEvent
  /-- The outcomes recorded, oldest first (R203). -/
  faults       : List FaultRecord
  /-- Set once an operation was refused (R21, R203). -/
  refused      : Bool
  /-- Input: the stack's run state (R26). -/
  runState     : RunState
  /-- Input: the error code (R27). -/
  errorCode    : Nat
  /-- Input: the desired-output table (R28). -/
  desired      : Vector Count 32
  /-- The node identifier startup sets; the block does not read it (R8, R231). -/
  nodeId       : Nat
  /-- The chip's registers (R30 to R33, R54). -/
  chip         : Memory
  /-- The timer's compare register (R205). -/
  timerCompare : Nat
  /-- Model's own: the byte the last value-returning operation handed to its caller (R111, R115). -/
  returned     : Option Byte
  /-- Model's own: the moves to come (R60). -/
  schedule     : List Move
  /-- Model's own: the draws to come (R14). -/
  oracle       : Oracle
deriving DecidableEq, Repr

/-- Why the machine stops with a fault. -/
inductive Fault
  /-- Raised by `step` when the parameter set was refused (R52, R202 `PARAM_CONSTRAINT`): no agent of such a machine takes a
  step. Safe. -/
  | configurationRefused
  /-- Raised by `step` when the move belongs to an agent that a recorded outcome has stopped (R203 "the agent that ran it takes
  no further step"). Safe. -/
  | agentStopped (a : Agent)
deriving DecidableEq, Repr

/-- Why the model gives an instruction no meaning. -/
inductive Refusal
  /-- Raised by `exec` for an instruction that has no meaning yet. Safe. -/
  | notModelled (mnemonic : String)
  /-- Raised by `step` when a request is nothing the spec names: a frame of a length the block does not use (R82 "exactly two lengths",
  R91 `FOREIGN`) or a line outside the syntax of R93 (92_eei_decisions.md D1: of an operation it does not name, "none admitted").
  Safe. -/
  | undecodable (e : DecodeError)
  /-- Raised by `step` when an operation is requested in a phase other than the one its rule names (R81 "issued by", R24 "the
  phase advances only by those rules"). Safe. -/
  | notAdmitted (i : Instr)
  /-- Raised by the two burst frames when byte 0 starts no wired channel's block: R91's `FOREIGN`, "never emitted by the
  block". Safe. -/
  | foreignFrame
deriving DecidableEq, Repr

/-- The state after power-on or reset of a machine built with parameter set `p` (R39, R230). -/
def State.ofParams (p : Params) : State where
  params := p
  cycleDue := false
  phase := .startup
  cache := Vector.replicate 32 ⟨0, 0⟩
  ctrl := ⟨p.chip, none, none⟩
  bus := []
  faults := []
  refused := false
  runState := Config.runStateAtReset
  errorCode := Config.errorCodeAtReset
  desired := Vector.ofFn fun i => Config.desiredAtReset i.val
  nodeId := Config.nodeIdAtReset
  chip := []
  timerCompare := Config.timerCompareAtReset
  returned := none
  schedule := []
  oracle := ⟨[], [], [], [], [], 0⟩

/-- The machine right after reset (R39), with the parameter set of this hardware. -/
def State.reset : State := State.ofParams Config.params.set

end Sys2Proof.Machine
end

