-- ==== Sys2Proof/Machine/Operands.lean ====
section
/-!
DEFINITION. The operands of the operations: which are outside their domain and by what name that is refused (spec/30_encoding.md
R89, spec/60_exceptions.md R207), the prescale formula (spec/40_pwm_driver.md R111), the mode bytes (R84), a channel's target
(spec/41_failsafe_policy.md R144, R145).
-/

namespace Sys2Proof.Machine

/-! ### Domains (R89, R207) -/

/-- `refuse(ADDR_RANGE)` for an address above 127. -/
def checkAddress (a : Nat) : Option Reason := if 127 < a then some .addrRange else none

/-- `refuse(BYTE_RANGE)` for a register number or a value above 255. -/
def checkByte (v : Nat) : Option Reason := if 255 < v then some .byteRange else none

/-- `refuse(COUNT_RANGE)` for a count above 65535. -/
def checkCount (v : Nat) : Option Reason := if 65535 < v then some .countRange else none

/-- `refuse(OPERAND_TYPE)` for a negative or non-integer channel or frequency. -/
def checkNatural (q : Rat) : Option Reason := if q.den = 1 ∧ 0 ≤ q.num then none else some .operandType

/-- The first refusal of R89 that an operation's operands meet, in the order `ADDR_RANGE`, `BYTE_RANGE`, `COUNT_RANGE`,
`OPERAND_TYPE` (R207). A frame's operands are bytes already. -/
def domainRefusal : Instr → Option Reason
  | .computePrescale f => checkNatural f
  | .setFrequency a f => checkAddress a <|> checkNatural f
  | .writeRegister a r v => checkAddress a <|> checkByte r <|> checkByte v
  | .setChannelOutput a c on off => checkAddress a <|> checkCount on <|> checkCount off <|> checkNatural c
  | .readRegister a r => checkAddress a <|> checkByte r
  | .policyEval => none
  | .timerTick => none
  | .loopTop => none
  | .loopClear => none
  | .loopPolicy => none
  | .loopBusCheck => none
  | .loopDispatch _ => none
  | .loopSleep => none
  | .startup => none
  | .busWriteReg _ _ _ => none
  | .busChannelBurst _ _ _ _ _ _ => none
  | .busPolicyBurst _ _ _ _ => none
  | .busReadReg _ _ _ => none

/-- An address, a byte, a count and a natural number inside their domains. -/
def addressOf (a : Nat) : BusAddr := BitVec.ofNat 7 a
@[inherit_doc addressOf] def byteOf (v : Nat) : Byte := BitVec.ofNat 8 v
@[inherit_doc addressOf] def countOf (v : Nat) : Count := BitVec.ofNat 16 v
@[inherit_doc addressOf] def naturalOf (q : Rat) : Nat := q.num.toNat

/-! ### The prescale formula (R111) -/

/-- `clamp(lo, hi, x) = min(hi, max(lo, x))` (R9). -/
def clamp (lo hi x : Int) : Int := min hi (max lo x)

/-- `x` of R111: `OSC_HZ / (STEPS * (f * CORR)) - 1`, exact. -/
def prescaleQuotient (f : Nat) : Rat :=
  (Config.oscHz : Rat) / ((Config.steps : Rat) * ((f : Rat) * Config.corr)) - 1

/-- `r` of R111: `floor(x + 1/2)`. -/
def prescaleRounded (f : Nat) : Int := (prescaleQuotient f + 1 / 2).floor

/-- `computePrescale(f)` (R111): zero raises `FREQ_ZERO`, any other frequency gives the rounded value clamped to 8 bits. -/
def prescaleOf (f : Nat) : Except Reason Byte :=
  if f = 0 then .error .freqZero
  else .ok (BitVec.ofInt 8 (clamp 0 Config.prescaleMax (prescaleRounded f)))

/-! ### Mode register bytes (R84) -/

/-- "Set a 'sleep' bit (bit 4) while preserving other bits". -/
def modeAsleep (old : Byte) : Byte := old ||| Config.sleepBit

/-- "Write mode register with auto-increment enabled (bits 0xA0 set)". -/
def modeRestarted (old : Byte) : Byte := old ||| Config.aiRestart

/-! ### A channel's target (R144, R145) -/

/-- `{on = 0, off = 0}`: "outputs fully de-asserted". -/
def failSafeTarget : Pair := ⟨0, 0⟩

/-- `{on = 0, off = desired & 0x0FFF}`: "mask to 12-bit PWM resolution". -/
def liveTarget (desired : Count) : Pair := ⟨0, desired &&& Config.mask12⟩

/-- The target of a processed channel (R144, R145). -/
def targetOf (enabled : Bool) (desired : Count) : Pair := if enabled then liveTarget desired else failSafeTarget

/-! ### The timer (R205) -/

/-- The compare value the periodic timer is configured with. -/
def timerCompareOf (p : Params) : Nat := p.timerCompareValue

end Sys2Proof.Machine
end

