-- ==== Sys2Proof/Machine/Flags.lean ====
section
/-!
DEFINITION. The one flag of the block, the cycle-due flag (spec/10_state.md R22, R38), and the two-valued readings derived from
the state and never stored: the scheduler state (R23), `enabled` (R29, spec/41_failsafe_policy.md R141) and the output mode
(R148).
-/

namespace Sys2Proof.Machine

/-- The timer interrupt's one effect (R171): a boolean, not a counter. -/
def State.raiseCycleDue (s : State) : State := { s with cycleDue := true }

/-- The main loop's clear (R177): it clears without reading. -/
def State.clearCycleDue (s : State) : State := { s with cycleDue := false }

/-- The scheduler's two states (R23). -/
inductive SchedulerState
  | idle
  | cycleDue
deriving DecidableEq, Repr

/-- R23: the scheduler state is the value of the flag. -/
def State.scheduler (s : State) : SchedulerState := if s.cycleDue then .cycleDue else .idle

/-- `enabled(rs, ec) = (rs != Stopped) and (ec = 0)` (R141). -/
def enabled (rs : RunState) (ec : Nat) : Bool := rs != .stopped && ec == 0

/-- The fail-safe output logic's mode, "computed afresh at each evaluation ... and kept nowhere" (R148). -/
inductive OutputMode
  | live
  | failSafe
deriving DecidableEq, Repr

/-- R148. -/
def State.outputMode (s : State) : OutputMode := if enabled s.runState s.errorCode then .live else .failSafe

end Sys2Proof.Machine
end

