-- ==== Sys2Proof/Machine/Ops.lean ====
section
/-!
DEFINITION. The named operations over the state that the meanings share: the chip's registers (spec/20_memory.md R54), the draws
(spec/00_scope.md R14, R15), the bus primitives (R14), the stack's changes to the inputs (spec/42_scheduler.md R179), and the one
way an outcome of spec/60_exceptions.md R202 is taken (R203).
-/

namespace Sys2Proof.Machine

/-! ### The chip's registers -/

namespace Memory

/-- What register `r` holds: the listed byte, or what an unlisted register reads as, the power-on draw (R39). -/
def read : Memory → Nat → Byte
  | [], r => Config.chipPowerOn r
  | (k, v) :: m, r => if k = r then v else read m r

/-- The list without register `r`. -/
def erase : Memory → Nat → Memory
  | [], _ => []
  | (k, v) :: m, r => if k = r then erase m r else (k, v) :: erase m r

/-- The list with register `r` holding `b`, in rising order. -/
def insert : Memory → Nat → Byte → Memory
  | [], r, b => [(r, b)]
  | (k, v) :: m, r, b =>
    if r < k then (r, b) :: (k, v) :: m
    else if r = k then (r, b) :: m
    else (k, v) :: insert m r b

/-- A register takes a byte; the value an unlisted register reads as is not listed. -/
def write (m : Memory) (r : Nat) (b : Byte) : Memory :=
  if b = Config.chipPowerOn r then erase m r else insert m r b

/-- Register numbers strictly rising. -/
def rising : Memory → Bool
  | [] => true
  | [_] => true
  | (k, _) :: (k', v') :: m => decide (k < k') && rising ((k', v') :: m)

/-- The canonical form: strictly rising, and no entry equal to what an unlisted register reads as. -/
def wf (m : Memory) : Bool := rising m && m.all fun c => c.2 != Config.chipPowerOn c.1

end Memory

/-! ### Draws -/

/-- A byte from the bus (R14: "a `u8` drawn from the bus oracle"). -/
def State.drawByte (s : State) : Byte × State :=
  match s.oracle.reads with
  | v :: vs => (v, { s with oracle := { s.oracle with reads := vs } })
  | [] => (Config.freeByte s.oracle.drawn, { s with oracle := { s.oracle with drawn := s.oracle.drawn + 1 } })

/-- The answer of `ReceiveFrame` (R178). -/
def State.drawFrame (s : State) : Option Frame × State :=
  match s.oracle.frames with
  | f :: fs => (f, { s with oracle := { s.oracle with frames := fs } })
  | [] => (Config.freeFrame s.oracle.drawn, { s with oracle := { s.oracle with drawn := s.oracle.drawn + 1 } })

/-- What the stack changes (R179). -/
def State.drawChanges (s : State) : List HostChange × State :=
  match s.oracle.changes with
  | c :: cs => (c, { s with oracle := { s.oracle with changes := cs } })
  | [] => (Config.freeChanges s.oracle.drawn, { s with oracle := { s.oracle with drawn := s.oracle.drawn + 1 } })

/-- Whether a data byte lands at the chip (R54). -/
def State.drawLanding (s : State) : Bool × State :=
  match s.oracle.landed with
  | b :: bs => (b, { s with oracle := { s.oracle with landed := bs } })
  | [] => (Config.freeLanding s.oracle.drawn, { s with oracle := { s.oracle with drawn := s.oracle.drawn + 1 } })

/-- The ticks that fall inside an iteration (R184). -/
def State.drawGaps (s : State) : TickGaps × State :=
  match s.oracle.gaps with
  | g :: gs => (g, { s with oracle := { s.oracle with gaps := gs } })
  | [] => (Config.freeGaps s.oracle.drawn, { s with oracle := { s.oracle with drawn := s.oracle.drawn + 1 } })

/-- Whether an unscheduled move is a tick (R60, R206). -/
def State.drawTick (s : State) : Bool × State :=
  (Config.freeTick s.oracle.drawn, { s with oracle := { s.oracle with drawn := s.oracle.drawn + 1 } })

/-! ### The bus (R14, R54) -/

/-- The bus history only grows at its end (R21 "the block only appends"). -/
def State.appendEvent (s : State) (e : BusEvent) : State := { s with bus := s.bus ++ [e] }

/-- The data bytes of a write at registers `r`, `r+1`, ...: each lands or leaves its register as it was, independently
(R54). -/
def landBytes : Nat → List Byte → State → State
  | _, [], s => s
  | r, d :: ds, s =>
    let (hit, s₁) := s.drawLanding
    landBytes (r + 1) ds (if hit then { s₁ with chip := Memory.write s₁.chip r d } else s₁)

/-- What a write does at the device: only the chip, at `CHIP_ADDR`, is a device of this bus (R58, R212). -/
def landWrite (a : BusAddr) (bytes : List Byte) (s : State) : State :=
  match bytes with
  | [] => s
  | r :: data => if a = s.params.chip then landBytes r.toNat data s else s

/-- `BusWrite(a, bytes)` (R14): one `Write` event; it returns nothing and cannot fail visibly. -/
def busWrite (a : BusAddr) (bytes : List Byte) (s : State) : State := landWrite a bytes (s.appendEvent (.write a bytes))

/-- A read transaction that returned `v` (R83): one `Read` event. -/
def busReadReturning (a : BusAddr) (r v : Byte) (s : State) : State := s.appendEvent (.read a r v)

/-- `BusRead(a, r)` (R14): one `Read` event with a drawn byte, which it returns. -/
def busRead (a : BusAddr) (r : Byte) (s : State) : Byte × State :=
  let (v, s₁) := s.drawByte
  (v, busReadReturning a r v s₁)

/-- `Wait(>= ms)` (R12): the event `Delay(ms)`. -/
def wait (ms : Nat) (s : State) : State := s.appendEvent (.delay ms)

/-! ### Fields written by one operation each -/

def State.setPhase (s : State) (p : Phase) : State := { s with phase := p }

/-- `s.cache[i] <- t` (R146). -/
def State.setCache (s : State) (i : Fin 32) (t : Pair) : State := { s with cache := s.cache.set i.val t i.isLt }

/-- `s.ctrl.frequencyHz <- f`, `s.ctrl.prescale <- p` (R112). -/
def State.setController (s : State) (f : Nat) (p : Byte) : State :=
  { s with ctrl := { s.ctrl with frequencyHz := some f, prescale := some p } }

/-- The byte an operation hands to its caller. -/
def State.setReturned (s : State) (v : Byte) : State := { s with returned := some v }

def State.setSchedule (s : State) (ms : List Move) : State := { s with schedule := ms }

/-- The node identifier and run state that startup sets (R231). -/
def State.setNode (s : State) (node : Nat) (r : RunState) : State := { s with nodeId := node, runState := r }

/-- The compare register of the periodic timer (R205). -/
def State.setTimerCompare (s : State) (v : Nat) : State := { s with timerCompare := v }

/-! ### The stack's interface (R15) -/

def readRunState (s : State) : RunState := s.runState
def readErrorCode (s : State) : Nat := s.errorCode
def readDesired (s : State) (i : Fin 32) : Count := s.desired[i.val]

/-- One change of an input. -/
def State.applyChange (s : State) : HostChange → State
  | .runState r => { s with runState := r }
  | .errorCode n => { s with errorCode := n }
  | .desired i v => { s with desired := s.desired.set i.val v i.isLt }

/-- Several changes, in order. -/
def State.applyChanges (s : State) (cs : List HostChange) : State := cs.foldl State.applyChange s

/-- A chance for the stack to change the inputs, by a draw (R60, R179, C11). -/
def stackActs (s : State) : State :=
  let (cs, s₁) := s.drawChanges
  s₁.applyChanges cs

/-- A host change that is announced: the stack makes it at its next chance, after those announced before it (R93 "happen only inside
a `dispatch` or a `startup`"). -/
def State.announce (s : State) (c : HostChange) : State :=
  match s.oracle.changes with
  | [] => { s with oracle := { s.oracle with changes := [[c]] } }
  | cs :: rest => { s with oracle := { s.oracle with changes := (cs ++ [c]) :: rest } }

/-! ### Taking an outcome (R203) -/

/-- A fault or refusal of R202 is recorded: the reason with its cause is appended to `faults`, a refusal sets `refused`, and
nothing else changes. The agent takes no further step because `State.stopped` reads the record. -/
def State.raise (s : State) (r : Reason) (c : Cause) : State :=
  { s with faults := s.faults ++ [⟨r, c⟩], refused := s.refused || r.isRefusal }

/-- The agent of a recorded outcome. -/
def Cause.stops : Cause → Agent → Bool
  | .operation _ b, a => b == a
  | .parameter _, _ => false

/-- R203: "the agent that ran it takes no further step". -/
def State.stopped (s : State) (a : Agent) : Bool := s.faults.any fun f => f.cause.stops a

/-- The parameter set was refused at configuration (R52, R202 `PARAM_CONSTRAINT`). -/
def State.configurationRefused (s : State) : Bool := s.faults.any fun f => f.reason == .paramConstraint

/-- R207: an operand outside its domain is refused before the operation starts. -/
def guardDomain (i : Instr) (a : Agent) (s : State) (run : State → Host.Outcome State Fault Refusal) :
    Host.Outcome State Fault Refusal :=
  match domainRefusal i with
  | some r => .next (s.raise r (.operation i a))
  | none => run s

/-- Configuring a machine with parameter set `p` (R52): a set that breaks a constraint of R8 is refused by `PARAM_CONSTRAINT`,
recorded with the parameter (R202, R203). -/
def State.configure (p : Params) : State :=
  match p.violation with
  | none => State.ofParams p
  | some name => (State.ofParams p).raise .paramConstraint (.parameter name)

end Sys2Proof.Machine
end

