-- ==== Sys2Proof/Machine/Driver.lean ====
section
/-!
DEFINITION. The PWM channel driver and the prescaler calculator (spec/40_pwm_driver.md): `COMPUTE_PRESCALE`, `SET_FREQUENCY`,
`WRITE_REGISTER`, `SET_CHANNEL_OUTPUT`, `READ_REGISTER`.
-/

namespace Sys2Proof.Machine

/-- `writeRegister(a, r, v)` (R113): the single-register write frame `[r, v]`. -/
def writeRegister (a : BusAddr) (r v : Byte) (s : State) : State := busWrite a [r, v] s

/-- `readRegister(a, r)` (R115): a drawn byte. -/
def readRegister (a : BusAddr) (r : Byte) (s : State) : Byte × State := busRead a r s

/-- `setChannelOutput(a, c, on, off)` (R114): nothing for a channel that is not wired (R116), else the 5-byte burst. -/
def setChannelOutput (a : BusAddr) (c : Nat) (on off : Count) (s : State) : State :=
  if Config.nWired ≤ c then s else busWrite a (chanReg s.params c :: countBytes on off) s

/-- The sequence of R112 once the prescale byte is known: read the mode register, sleep, prescale, restore, wait, restart; then
the controller's attributes. -/
def programFrequency (a : BusAddr) (f : Nat) (p : Byte) (s : State) : State :=
  let mode := s.params.mode
  let (old, s₁) := readRegister a mode s
  let s₂ := writeRegister a mode (modeAsleep old) s₁
  let s₃ := writeRegister a s.params.prescale p s₂
  let s₄ := writeRegister a mode old s₃
  let s₅ := wait Config.oscWaitMs s₄
  let s₆ := writeRegister a mode (modeRestarted old) s₅
  s₆.setController f p

/-- `setFrequency(a, f)` (R112): admitted once, in `Startup`; the prescale is computed, and may fault, before any bus event. -/
def setFrequency (a : BusAddr) (f : Nat) (s : State) : Except Reason State :=
  if s.phase ≠ .startup ∨ s.ctrl.prescale ≠ none then .error .runtimeFrequencyChange
  else
    match prescaleOf f with
    | .error r => .error r
    | .ok p => .ok (programFrequency a f p s)

/-- An operation that may raise an outcome: the outcome is recorded for `i` and its agent (R203). -/
def orRaise (i : Instr) (agent : Agent) (s : State) : Except Reason State → State
  | .error r => s.raise r (.operation i agent)
  | .ok s' => s'

/-- `COMPUTE_PRESCALE` (R111): a pure function of its operand; the byte is returned and nothing else changes. -/
def execComputePrescale (f : Rat) (s : State) : Host.Outcome State Fault Refusal :=
  guardDomain (.computePrescale f) .caller s fun s =>
    .next (orRaise (.computePrescale f) .caller s ((prescaleOf (naturalOf f)).map s.setReturned))

/-- `SET_FREQUENCY` (R112), called directly. -/
def execSetFrequency (a : Nat) (f : Rat) (s : State) : Host.Outcome State Fault Refusal :=
  guardDomain (.setFrequency a f) .caller s fun s =>
    .next (orRaise (.setFrequency a f) .caller s (setFrequency (addressOf a) (naturalOf f) s))

/-- `WRITE_REGISTER` (R113). -/
def execWriteRegister (a r v : Nat) (s : State) : Host.Outcome State Fault Refusal :=
  guardDomain (.writeRegister a r v) .caller s fun s =>
    .next (writeRegister (addressOf a) (byteOf r) (byteOf v) s)

/-- `SET_CHANNEL_OUTPUT` (R114, R116). -/
def execSetChannelOutput (a : Nat) (c : Rat) (on off : Nat) (s : State) : Host.Outcome State Fault Refusal :=
  guardDomain (.setChannelOutput a c on off) .caller s fun s =>
    .next (setChannelOutput (addressOf a) (naturalOf c) (countOf on) (countOf off) s)

/-- `READ_REGISTER` (R115): the drawn byte goes to the caller. -/
def execReadRegister (a r : Nat) (s : State) : Host.Outcome State Fault Refusal :=
  guardDomain (.readRegister a r) .caller s fun s =>
    let (v, s₁) := readRegister (addressOf a) (byteOf r) s
    .next (s₁.setReturned v)

end Sys2Proof.Machine
end

