-- ==== Sys2Proof/Machine/Boot.lean ====
section
/-!
DEFINITION. The startup sequence (spec/70_reset_and_hazards.md R231): `STARTUP`.
-/

namespace Sys2Proof.Machine

/-- The frequency call of startup, `setFrequency(CHIP_ADDR, TARGET_FREQ_HZ)`, as the operation an outcome is recorded for. -/
def startupCall (s : State) : Instr := .setFrequency s.params.chip.toNat (Config.targetFreqHz : Rat)

/-- What startup does after the frequency is programmed (R231): the host acts, the node identifier and run state are set, the
timer is configured, and the main loop begins at `Top`. -/
def startupRest (s : State) : State :=
  let s₁ := (stackActs s).setNode s.params.nodeId s.params.initRunState
  (s₁.setTimerCompare (timerCompareOf s.params)).setPhase .top

/-- `startup()` (R231). Port setup and bus initialisation have no block effect and no bus event; an outcome of `setFrequency`
stops startup (R203). -/
def startup (s : State) : State :=
  orRaise (startupCall s) .mainLoop s ((setFrequency s.params.chip Config.targetFreqHz s).map startupRest)

/-- `STARTUP` (R231). -/
def execStartup (s : State) : Host.Outcome State Fault Refusal := .next (startup s)

end Sys2Proof.Machine
end

