-- ==== Sys2Proof/Machine/Frames.lean ====
section
/-!
DEFINITION. The bus frames of spec/opcode_table.json as transactions on the bus (spec/30_encoding.md R82, R83, R91): what the
driver's primitives put there, one event each.
-/

namespace Sys2Proof.Machine

/-- A 5-byte write frame: R91 reads it only where byte 0 starts a wired channel's block; any other is `FOREIGN`, "never emitted
by the block". -/
def burstFrame (a : BusAddr) (r : Byte) (data : List Byte) (s : State) : Host.Outcome State Fault Refusal :=
  if (channelOfReg s.params r).isSome then .next (busWrite a (r :: data) s) else .refused .foreignFrame

/-- `BUS_WRITE_REG`: `Write(a, [R, V])`. -/
def execBusWriteReg (a : BusAddr) (r v : Byte) (s : State) : Host.Outcome State Fault Refusal :=
  .next (busWrite a [r, v] s)

/-- `BUS_CHANNEL_BURST`: `Write(a, [R, onLow, onHigh, offLow, offHigh])`. -/
def execBusChannelBurst (a : BusAddr) (r onLow onHigh offLow offHigh : Byte) (s : State) :
    Host.Outcome State Fault Refusal :=
  burstFrame a r [onLow, onHigh, offLow, offHigh] s

/-- `BUS_POLICY_BURST`: `Write(a, [R, 0, 0, offLow, offHigh])`, `offHigh` of 4 bits. -/
def execBusPolicyBurst (a : BusAddr) (r offLow : Byte) (offHigh : BitVec 4) (s : State) :
    Host.Outcome State Fault Refusal :=
  burstFrame a r [0, 0, offLow, offHigh.setWidth 8] s

/-- `BUS_READ_REG`: `Read(a, R, V)`; the frame carries the byte that came back, and the transaction hands it on. -/
def execBusReadReg (a : BusAddr) (r v : Byte) (s : State) : Host.Outcome State Fault Refusal :=
  .next ((busReadReturning a r v s).setReturned v)

end Sys2Proof.Machine
end

