-- ==== Sys2Proof/Machine/Policy.lean ====
section
/-!
DEFINITION. The fail-safe output policy and the register-write gate (spec/41_failsafe_policy.md): `POLICY_EVAL`.
-/

namespace Sys2Proof.Machine

/-- The write gate (R146): a driver write only on change, then the cache takes the target. -/
def gate (i : Fin 32) (t : Pair) (s : State) : State :=
  if t = s.cache[i.val] then s
  else (setChannelOutput s.ctrl.busAddress i.val t.on t.off s).setCache i t

/-- One channel of an evaluation: a channel that is not wired is skipped entirely (R143), any other is gated with its target
(R144 to R146). -/
def policyChannel (en : Bool) (s : State) (i : Fin 32) : State :=
  if Config.nWired ≤ i.val then s else gate i (targetOf en (readDesired s i)) s

/-- The channels `0, 1, ..., TABLE_LEN-1` in ascending order (R142). -/
def policyChannels : List (Fin 32) := List.finRange 32

/-- `policyEval()` (R147): run state and error code are read once, then the channels are processed in order. (Irreducible only
so that no unifier unfolds the loop; the kernel computes it as it is written.) -/
@[irreducible]
def policyEval (s : State) : State :=
  policyChannels.foldl (policyChannel (enabled (readRunState s) (readErrorCode s))) s

/-- `POLICY_EVAL` (R147). -/
def execPolicyEval (s : State) : Host.Outcome State Fault Refusal := .next (policyEval s)

end Sys2Proof.Machine
end

