-- ==== Sys2Proof/Machine/Scheduler.lean ====
section
/-!
DEFINITION. The timer interrupt and the main loop (spec/42_scheduler.md): `TIMER_TICK`, `LOOP_TOP`, `LOOP_CLEAR`, `LOOP_POLICY`,
`LOOP_BUSCHECK`, `LOOP_DISPATCH`, `LOOP_SLEEP`, and the composite `iteration`. A meaning is its rule's pseudocode; that a
main-loop step runs only in its phase is decided where a step is issued (`Instr.admittedIn`).
-/

namespace Sys2Proof.Machine

/-- `top()` (R176). -/
def loopTop (s : State) : State := if s.cycleDue then s.setPhase .clear else s.setPhase .busCheck

/-- `clear()` (R177). -/
def loopClear (s : State) : State := s.clearCycleDue.setPhase .policy

/-- `policyPhase()` (R181). -/
def loopPolicy (s : State) : State := (policyEval s).setPhase .busCheck

/-- `busCheck()` (R178). -/
def loopBusCheck (s : State) : State :=
  let (f, s₁) := s.drawFrame
  match f with
  | some f => s₁.setPhase (.dispatch f)
  | none => s₁.setPhase .sleep

/-- `dispatch(f)` (R179): the stack handles the frame, which may change the inputs by a draw. -/
def loopDispatch (_f : Frame) (s : State) : State := (stackActs s).setPhase .top

/-- `sleep()` (R180). -/
def loopSleep (s : State) : State := s.setPhase .top

/-- `n` ticks fall, one after another (R171). -/
def ticksFall : Nat → State → State
  | 0, s => s
  | n + 1, s => ticksFall n s.raiseCycleDue

/-- `iteration()` (R184): one pass of the main loop from `Top` back to `Top`, with the ticks `g` between its steps. -/
def iteration (g : TickGaps) (s : State) : State :=
  let s₁ := ticksFall g.afterTop (loopTop s)
  let s₂ :=
    if s₁.phase = .clear then ticksFall g.afterPolicy (loopPolicy (ticksFall g.afterClear (loopClear s₁))) else s₁
  let s₃ := ticksFall g.afterBusCheck (loopBusCheck s₂)
  match s₃.phase with
  | .dispatch f => loopDispatch f s₃
  | _ => loopSleep s₃

/-- `TIMER_TICK` (R171). -/
def execTimerTick (s : State) : Host.Outcome State Fault Refusal := .next s.raiseCycleDue

/-- `LOOP_TOP` (R176). -/
def execLoopTop (s : State) : Host.Outcome State Fault Refusal := .next (loopTop s)

/-- `LOOP_CLEAR` (R177). -/
def execLoopClear (s : State) : Host.Outcome State Fault Refusal := .next (loopClear s)

/-- `LOOP_POLICY` (R181). -/
def execLoopPolicy (s : State) : Host.Outcome State Fault Refusal := .next (loopPolicy s)

/-- `LOOP_BUSCHECK` (R178). -/
def execLoopBusCheck (s : State) : Host.Outcome State Fault Refusal := .next (loopBusCheck s)

/-- `LOOP_DISPATCH` (R179). -/
def execLoopDispatch (f : Frame) (s : State) : Host.Outcome State Fault Refusal := .next (loopDispatch f s)

/-- `LOOP_SLEEP` (R180). -/
def execLoopSleep (s : State) : Host.Outcome State Fault Refusal := .next (loopSleep s)

end Sys2Proof.Machine
end

