-- ==== Sys2Proof/Machine/Dispatch.lean ====
section
/-! DEFINITION. One arm per row of spec/opcode_table.json. -/

namespace Sys2Proof.Machine

def exec (i : Instr) (s : State) : Host.Outcome State Fault Refusal :=
  match i with
  | .computePrescale f => Sys2Proof.Machine.execComputePrescale f s
  | .setFrequency a f => Sys2Proof.Machine.execSetFrequency a f s
  | .writeRegister a r v => Sys2Proof.Machine.execWriteRegister a r v s
  | .setChannelOutput a c on off => Sys2Proof.Machine.execSetChannelOutput a c on off s
  | .readRegister a r => Sys2Proof.Machine.execReadRegister a r s
  | .policyEval => Sys2Proof.Machine.execPolicyEval s
  | .timerTick => Sys2Proof.Machine.execTimerTick s
  | .loopTop => Sys2Proof.Machine.execLoopTop s
  | .loopClear => Sys2Proof.Machine.execLoopClear s
  | .loopPolicy => Sys2Proof.Machine.execLoopPolicy s
  | .loopBusCheck => Sys2Proof.Machine.execLoopBusCheck s
  | .loopDispatch f => Sys2Proof.Machine.execLoopDispatch f s
  | .loopSleep => Sys2Proof.Machine.execLoopSleep s
  | .startup => Sys2Proof.Machine.execStartup s
  | .busWriteReg a r v => Sys2Proof.Machine.execBusWriteReg a r v s
  | .busChannelBurst a r b1 b2 b3 b4 => Sys2Proof.Machine.execBusChannelBurst a r b1 b2 b3 b4 s
  | .busPolicyBurst a r c d => Sys2Proof.Machine.execBusPolicyBurst a r c d s
  | .busReadReg a r v => Sys2Proof.Machine.execBusReadReg a r v s

end Sys2Proof.Machine
end

