-- ==== Sys2Proof/Machine/Issue.lean ====
section
/-!
DEFINITION. Who issues an operation and when it is admitted (spec/30_encoding.md R81 "issued by", spec/42_scheduler.md R170,
spec/10_state.md R24): the main loop runs the operation of its phase, the timer its tick, and anyone the driver's primitives.
-/

namespace Sys2Proof.Machine

/-- The main-loop operation of each phase (R170, R231). -/
def Phase.operation : Phase → Instr
  | .startup => .startup
  | .top => .loopTop
  | .clear => .loopClear
  | .policy => .loopPolicy
  | .busCheck => .loopBusCheck
  | .dispatch f => .loopDispatch f
  | .sleep => .loopSleep

/-- The agent that issues an operation (R81). -/
def issuer : Instr → Agent
  | .computePrescale _ => .caller
  | .setFrequency _ _ => .caller
  | .writeRegister _ _ _ => .caller
  | .setChannelOutput _ _ _ _ => .caller
  | .readRegister _ _ => .caller
  | .policyEval => .mainLoop
  | .timerTick => .timer
  | .loopTop => .mainLoop
  | .loopClear => .mainLoop
  | .loopPolicy => .mainLoop
  | .loopBusCheck => .mainLoop
  | .loopDispatch _ => .mainLoop
  | .loopSleep => .mainLoop
  | .startup => .mainLoop
  | .busWriteReg _ _ _ => .caller
  | .busChannelBurst _ _ _ _ _ _ => .caller
  | .busPolicyBurst _ _ _ _ => .caller
  | .busReadReg _ _ _ => .caller

/-- The phase an operation of the main loop is issued in (R81, R170); any other operation has none. -/
def issuePhase : Instr → Option Phase
  | .computePrescale _ => none
  | .setFrequency _ _ => none
  | .writeRegister _ _ _ => none
  | .setChannelOutput _ _ _ _ => none
  | .readRegister _ _ => none
  | .policyEval => some .policy
  | .timerTick => none
  | .loopTop => some .top
  | .loopClear => some .clear
  | .loopPolicy => some .policy
  | .loopBusCheck => some .busCheck
  | .loopDispatch f => some (.dispatch f)
  | .loopSleep => some .sleep
  | .startup => some .startup
  | .busWriteReg _ _ _ => none
  | .busChannelBurst _ _ _ _ _ _ => none
  | .busPolicyBurst _ _ _ _ => none
  | .busReadReg _ _ _ => none

/-- The operation may be issued in this phase: one of the main loop only in its own, any other in every phase (R24, R211). -/
def admittedIn (i : Instr) (p : Phase) : Bool :=
  match issuePhase i with
  | some q => p == q
  | none => true

/-- What the next step runs: an operation in a state from which the choice has been taken, a request that is no operation of the
block, or a stop. -/
inductive Selection
  | run (i : Instr) (s : State)
  /-- No operation of the block: the state the request leaves. -/
  | leave (s : State)
  | fault (r : Fault)
  | refuse (r : Refusal)

/-- An operation is issued: not by a stopped agent (R203), and only where it is admitted. -/
def issue (i : Instr) (s : State) : Selection :=
  if s.stopped (issuer i) then .fault (.agentStopped (issuer i))
  else if admittedIn i s.phase then .run i s
  else .refuse (.notAdmitted i)

/-- A main-loop step after `n` ticks. -/
def mainAfterTicks (n : Nat) : List Move := List.replicate n .tick ++ [.main]

/-- What follows the `Top` of an iteration (R184): with a cycle due `Clear` and `Policy`, then `BusCheck` and `Dispatch` or `Sleep`,
each after the ticks that `g` puts before it. -/
def iterationRest (g : TickGaps) (due : Bool) : List Move :=
  mainAfterTicks g.afterTop ++ (if due then mainAfterTicks g.afterClear ++ mainAfterTicks g.afterPolicy else []) ++
    mainAfterTicks g.afterBusCheck

/-- What a request comes to: an operation is issued; `iteration` is its steps, `Top` first, with ticks between them by a draw (R94,
R184); a host change is announced (R93); an empty line or a comment does nothing. -/
def request (l : Line) (ms : List Move) (s : State) : Selection :=
  match l with
  | .operation i => issue i (s.setSchedule ms)
  | .iteration =>
    let (g, s₁) := s.drawGaps
    issue .loopTop (s₁.setSchedule (iterationRest g s.cycleDue ++ ms))
  | .host c => .leave ((s.setSchedule ms).announce c)
  | .nothing => .leave (s.setSchedule ms)

/-- The operation the next step runs (R60). The head of `schedule` says which agent moves; where nothing is scheduled a free value
chooses between a tick and the main loop (R206), and a stopped main loop leaves only ticks (R203). -/
def select (s : State) : Selection :=
  if s.configurationRefused then .fault .configurationRefused
  else
    match s.schedule with
    | .tick :: ms => issue .timerTick (s.setSchedule ms)
    | .main :: ms => issue s.phase.operation (s.setSchedule ms)
    | .request p :: ms =>
      match readPacket p with
      | .ok l => request l ms s
      | .error e => .refuse (.undecodable e)
    | [] =>
      let (tick, s₁) := s.drawTick
      if tick || s.stopped .mainLoop then issue .timerTick s₁ else issue s.phase.operation s₁

/-- The state from which the next step runs an operation issued in phase `p`. -/
def State.atPhase (s : State) : Option Phase → State
  | some p => s.setPhase p
  | none => s

/-- A request placed before everything scheduled, with the main loop at the phase its operation is issued in. -/
def State.withRequest (s : State) (p : Packet) : State :=
  let s₁ := s.setSchedule (.request p :: s.schedule)
  match readPacket p with
  | .ok (.operation i) => s₁.atPhase (issuePhase i)
  | .ok .iteration => s₁.setPhase .top
  | .ok (.host _) => s₁
  | .ok .nothing => s₁
  | .error _ => s₁

end Sys2Proof.Machine
end

