-- ==== Sys2Proof/Machine/Step.lean ====
section
/-! DEFINITION. One step of the machine: the selected operation runs. -/

namespace Sys2Proof.Machine

def step (s : State) : Host.Outcome State Fault Refusal :=
  match select s with
  | .run i s₁ => exec i s₁
  | .leave s₁ => .next s₁
  | .fault r => .fault r
  | .refuse r => .refused r

/-- `s` with the operation of a table word next (the machine has no program memory, R51: an operation comes next by being
requested, and one of the main loop by the phase, its program counter, R24). -/
def State.withFetchWord (s : State) (nbits w : Nat) : State := s.withRequest (tablePacket s.params.chip nbits w)

end Sys2Proof.Machine
end

