-- ==== Sys2Proof/Safety.lean ====
section
/-!
DEFINITION. What a good state and a good run are, in the words the statements use: the premise "no fault and no refusal recorded"
(spec/60_exceptions.md R203), the invariant of the machine, what a bus write may leave in the chip (spec/20_memory.md R54), the
history of a run nobody disturbs (spec/70_reset_and_hazards.md R232 to R236), how often an operation runs (spec/42_scheduler.md
R186) and the fairness R180 and R206 ask of a run.
-/

namespace Sys2Proof.Machine

/-! ### Good states -/

/-- "No fault and no refusal recorded" (R203). -/
def State.good (s : State) : Prop := s.faults = [] ∧ s.refused = false

/-- The main loop may take a step: the configuration stands and nothing has stopped it (R203). -/
def State.mainLoopRuns (s : State) : Prop := s.configurationRefused = false ∧ s.stopped .mainLoop = false

/-- The controller is either untouched or holds a frequency and the prescale computed from it (R34, R112). -/
def Controller.consistent (c : Controller) : Prop :=
  (c.frequencyHz = none ∧ c.prescale = none) ∨
    ∃ f p, c.frequencyHz = some f ∧ c.prescale = some p ∧ prescaleOf f = .ok p

/-- What holds in every state a run reaches, whatever its schedule and its draws. -/
structure Inv (s : State) : Prop where
  /-- The parameter set meets R8. -/
  params : s.params.ok = true
  /-- `ctrl.busAddress = CHIP_ADDR` (R34). -/
  address : s.ctrl.busAddress = s.params.chip
  /-- The on-count of every pair is 0 (R25). -/
  onZero : ∀ i : Fin 32, s.cache[i.val].on = 0
  /-- The off-count of every pair has 12 bits (R28, R145). -/
  offMasked : ∀ i : Fin 32, s.cache[i.val].off.toNat ≤ 4095
  /-- A pair of a channel that is not wired is never written (R25). -/
  unwired : ∀ i : Fin 32, Config.nWired ≤ i.val → s.cache[i.val] = failSafeTarget
  /-- The chip's registers are in canonical form, numbered 0..255 (R58). -/
  chip : Memory.wf s.chip = true ∧ ∀ c ∈ s.chip, c.1 ≤ 255
  /-- No event of the history is `FOREIGN` (R91, R118). -/
  bus : ∀ e ∈ s.bus, classify s.params e ≠ .foreign
  /-- R34, R112. -/
  ctrl : s.ctrl.consistent
  /-- `refused` says whether a refusal is recorded (R203). -/
  record : s.refused = s.faults.any fun f => f.reason.isRefusal
  /-- Past `Startup`, the frequency is programmed and the timer configured (R231, R232). -/
  running : s.phase ≠ .startup → s.ctrl.prescale ≠ none ∧ s.timerCompare = timerCompareOf s.params
  /-- `Clear` is entered only with the flag up, and only `Clear` takes it down (R176, R177). -/
  clearDue : s.phase = .clear → s.cycleDue = true

/-- The main loop's cycle `Top → (Clear → Policy)? → BusCheck → (Dispatch | Sleep) → Top` (R170), entered from `Startup`
(R231). -/
def Phase.follows (q : Phase) : Phase → Prop
  | .startup => q = .top
  | .top => q = .clear ∨ q = .busCheck
  | .clear => q = .policy
  | .policy => q = .busCheck
  | .busCheck => q = .sleep ∨ ∃ f, q = .dispatch f
  | .dispatch _ => q = .top
  | .sleep => q = .top

/-! ### What an operation can touch -/

/-- Operations that put a write transaction on the bus, and so can change a register of the chip (R54, R112 to R114, R146, R231). -/
def writesChip : Instr → Bool
  | .computePrescale _ => false
  | .setFrequency _ _ => true
  | .writeRegister _ _ _ => true
  | .setChannelOutput _ _ _ _ => true
  | .readRegister _ _ => false
  | .policyEval => true
  | .timerTick => false
  | .loopTop => false
  | .loopClear => false
  | .loopPolicy => true
  | .loopBusCheck => false
  | .loopDispatch _ => false
  | .loopSleep => false
  | .startup => true
  | .busWriteReg _ _ _ => true
  | .busChannelBurst _ _ _ _ _ _ => true
  | .busPolicyBurst _ _ _ _ => true
  | .busReadReg _ _ _ => false

/-- Operations that put a transaction on the bus: the writes and the reads (R14, R115). -/
def usesBus : Instr → Bool
  | .computePrescale _ => false
  | .setFrequency _ _ => true
  | .writeRegister _ _ _ => true
  | .setChannelOutput _ _ _ _ => true
  | .readRegister _ _ => true
  | .policyEval => true
  | .timerTick => false
  | .loopTop => false
  | .loopClear => false
  | .loopPolicy => true
  | .loopBusCheck => false
  | .loopDispatch _ => false
  | .loopSleep => false
  | .startup => true
  | .busWriteReg _ _ _ => true
  | .busChannelBurst _ _ _ _ _ _ => true
  | .busPolicyBurst _ _ _ _ => true
  | .busReadReg _ _ _ => true

/-- Operations that can raise an outcome of R202: the driver's own calls, and startup's. -/
def mayRecord : Instr → Bool
  | .computePrescale _ => true
  | .setFrequency _ _ => true
  | .writeRegister _ _ _ => true
  | .setChannelOutput _ _ _ _ => true
  | .readRegister _ _ => true
  | .policyEval => false
  | .timerTick => false
  | .loopTop => false
  | .loopClear => false
  | .loopPolicy => false
  | .loopBusCheck => false
  | .loopDispatch _ => false
  | .loopSleep => false
  | .startup => true
  | .busWriteReg _ _ _ => false
  | .busChannelBurst _ _ _ _ _ _ => false
  | .busPolicyBurst _ _ _ _ => false
  | .busReadReg _ _ _ => false

/-- Operations that hand a byte to their caller (R111, R115, R83). -/
def returnsByte : Instr → Bool
  | .computePrescale _ => true
  | .setFrequency _ _ => false
  | .writeRegister _ _ _ => false
  | .setChannelOutput _ _ _ _ => false
  | .readRegister _ _ => true
  | .policyEval => false
  | .timerTick => false
  | .loopTop => false
  | .loopClear => false
  | .loopPolicy => false
  | .loopBusCheck => false
  | .loopDispatch _ => false
  | .loopSleep => false
  | .startup => false
  | .busWriteReg _ _ _ => false
  | .busChannelBurst _ _ _ _ _ _ => false
  | .busPolicyBurst _ _ _ _ => false
  | .busReadReg _ _ _ => true

/-- Operations that write the phase (R176 to R181, R231). -/
def movesPhase : Instr → Bool
  | .computePrescale _ => false
  | .setFrequency _ _ => false
  | .writeRegister _ _ _ => false
  | .setChannelOutput _ _ _ _ => false
  | .readRegister _ _ => false
  | .policyEval => false
  | .timerTick => false
  | .loopTop => true
  | .loopClear => true
  | .loopPolicy => true
  | .loopBusCheck => true
  | .loopDispatch _ => true
  | .loopSleep => true
  | .startup => true
  | .busWriteReg _ _ _ => false
  | .busChannelBurst _ _ _ _ _ _ => false
  | .busPolicyBurst _ _ _ _ => false
  | .busReadReg _ _ _ => false

/-! ### What a write leaves in the chip (R54) -/

/-- Of the registers `r`, `r+1`, ... each holds its byte of `data` or what it held; every other register holds what it held. -/
def LandsOrKeeps (m m' : Memory) (r : Nat) (data : List Byte) : Prop :=
  (∀ q, (q < r ∨ r + data.length ≤ q) → Memory.read m' q = Memory.read m q) ∧
    ∀ j (h : j < data.length), Memory.read m' (r + j) = data[j] ∨ Memory.read m' (r + j) = Memory.read m (r + j)

/-- The same for a write transaction to device address `a`: only the chip is a device (R58, R212). -/
def WriteEffect (p : Params) (a : BusAddr) (r : Byte) (data : List Byte) (m m' : Memory) : Prop :=
  if a = p.chip then LandsOrKeeps m m' r.toNat data else m' = m

/-! ### Histories (R112, R231) -/

/-- The bus events of `setFrequency` (R112), the mode register having read as `old`. -/
def programmingEvents (p : Params) (a : BusAddr) (old prescale : Byte) : List BusEvent :=
  [.read a p.mode old, .write a [p.mode, old ||| 0x10], .write a [p.prescale, prescale], .write a [p.mode, old],
   .delay 5, .write a [p.mode, old ||| 0xA0]]

/-- A burst the policy emits (R88, R118): to the chip, for a wired channel, on-count 0, off-count of 12 bits. -/
def isPolicyBurst (p : Params) (e : BusEvent) : Prop :=
  ∃ c off, classify p e = .setChannelOutput p.chip c 0 off ∧ c < 16 ∧ off.toNat ≤ 4095

/-- The burst that gives channel `i` the pair `t` (R82, R86, R87), written out. -/
def burstEvent (p : Params) (a : BusAddr) (i : Nat) (t : Pair) : BusEvent :=
  .write a [BitVec.ofNat 8 (p.channelBase + 4 * i), BitVec.ofNat 8 (t.on.toNat % 256), BitVec.ofNat 8 (t.on.toNat / 256),
    BitVec.ofNat 8 (t.off.toNat % 256), BitVec.ofNat 8 (t.off.toNat / 256)]

/-- The target R144 and R145 give channel `i` in state `s`. -/
def State.target (s : State) (i : Fin 32) : Pair :=
  if s.runState ≠ .stopped ∧ s.errorCode = 0 then ⟨0, s.desired[i.val] &&& 0x0FFF⟩ else ⟨0, 0⟩

/-- The wired channels in ascending order (R142, R143). -/
def wiredChannels : List (Fin 32) := (List.finRange 32).filter fun i => i.val < 16

/-- What one policy evaluation makes of `s` (R142 to R147): every wired channel's pair becomes its target, one burst goes out for
each that changes, in ascending order, no other field of the block changes, and at the chip only the registers of those channels
can change. -/
structure PolicyOutcome (s t : State) : Prop where
  wired : ∀ i : Fin 32, i.val < 16 → t.cache[i.val] = s.target i
  unwired : ∀ i : Fin 32, 16 ≤ i.val → t.cache[i.val] = s.cache[i.val]
  bus : t.bus = s.bus ++ wiredChannels.filterMap fun i =>
    if s.target i = s.cache[i.val] then none else some (burstEvent s.params s.ctrl.busAddress i.val (s.target i))
  frame : t = { s with cache := t.cache, bus := t.bus, chip := t.chip, oracle := t.oracle }
  chip : ∀ q, (∀ i : Fin 32, i.val < 16 → s.target i ≠ s.cache[i.val] →
      q < (chanReg s.params i.val).toNat ∨ (chanReg s.params i.val).toNat + 4 ≤ q) →
    Memory.read t.chip q = Memory.read s.chip q

/-- Only the block's own agents move: ticks and main-loop steps, no request from outside. -/
def State.undisturbed (s : State) : Prop := ∀ m ∈ s.schedule, m = .tick ∨ m = .main

/-- The history of a block nobody disturbs: nothing before startup, then exactly the programming of `TARGET_FREQ_HZ`, then only
policy bursts (R232, R234 to R236). -/
def State.ownHistory (s : State) : Prop :=
  (s.phase = .startup ∧ s.bus = [] ∧ s.ctrl.prescale = none) ∨
    (s.phase ≠ .startup ∧ ∃ old rest, s.bus = programmingEvents s.params s.params.chip old 6 ++ rest ∧
      ∀ e ∈ rest, isPolicyBurst s.params e)

/-! ### Runs -/

/-- The operation the next step runs, if it runs one. -/
def State.nextOperation (s : State) : Option Instr :=
  match select s with
  | .run i _ => some i
  | .leave _ => none
  | .fault _ => none
  | .refuse _ => none

/-- How often operation `i` runs in the next `k` steps. -/
def timesRun (i : Instr) : Nat → State → Nat
  | 0, _ => 0
  | k + 1, s =>
    (if s.nextOperation = some i then 1 else 0) +
      match step s with
      | .next s' => timesRun i k s'
      | .fault _ => 0
      | .refused _ => 0

/-- The states of a run, as a relation on the step number: `run n` steps to `run (n+1)`. -/
def IsRun (run : Nat → State) : Prop := ∀ n, step (run n) = .next (run (n + 1))

/-- A run the spec admits as infinite: ticks recur (R206 "an infinite run has infinitely many ticks"), and a main loop that nothing
has stopped keeps moving, so that it does not stay in `Sleep` with the flag up (R180). The free values of one step promise
neither, so a claim about such runs takes this as its premise. -/
def FairRun (run : Nat → State) : Prop :=
  IsRun run ∧ (∀ n, ∃ m, n ≤ m ∧ (run m).nextOperation = some .timerTick) ∧
    ∀ n, (run n).mainLoopRuns → ∃ m i, n ≤ m ∧ (run m).nextOperation = some i ∧ issuer i = .mainLoop

end Sys2Proof.Machine
end

