-- ==== Sys2Proof/Certificates/Slice0/Obligations.lean ====
section
/-!
DEFINITION. The statements for the provers. Each docstring names the rules of spec/ it formalises; where a clause is the model's own
choice it names the log entry.
-/

open Sys2Proof Sys2Proof.Machine

/-! ### Which operation a step runs -/

/-- A request whose packet decodes is run by the next step, in the state from which only the request has been taken off the
schedule (R81 "issued by", R203, R211). The request and the schedule are the model's own (log 7, log 9, log 12). -/
def Obligations.StepRunsRequestedOperation : Prop :=
  ∀ (s : State) (p : Packet) (i : Instr) (ms : List Move),
    s.configurationRefused = false → s.schedule = .request p :: ms → decode p = .ok i → s.stopped (issuer i) = false →
    admittedIn i s.phase = true → step s = exec i (s.setSchedule ms)

/-- A scheduled main-loop move runs the operation of the phase, the block's program counter; a move that nothing schedules is a tick
or a main-loop step (R24, R60, R170). The schedule is the model's own (log 7). -/
def Obligations.StepRunsPhaseOperation : Prop :=
  (∀ (s : State) (ms : List Move), s.mainLoopRuns → s.schedule = .main :: ms →
    step s = exec s.phase.operation (s.setSchedule ms)) ∧
  (∀ s : State, s.configurationRefused = false → s.stopped .timer = false → s.schedule = [] →
    step s = exec .timerTick s.drawTick.2 ∨ (s.stopped .mainLoop = false ∧ step s = exec s.phase.operation s.drawTick.2))

/-- Where a step stops, it says why (log 12): a refused configuration (R52); a move of a stopped agent, be it scheduled, requested or
chosen freely (R203); a request that can be read as nothing the spec names (R82, R91, R93); an operation outside its phase (R81). -/
def Obligations.StepStopsByName : Prop :=
  (∀ s : State, s.configurationRefused = true → step s = .fault .configurationRefused) ∧
  (∀ (s : State) (p : Packet) (e : DecodeError) (ms : List Move), s.configurationRefused = false →
    s.schedule = .request p :: ms → readPacket p = .error e → step s = .refused (.undecodable e)) ∧
  (∀ (s : State) (ms : List Move), s.configurationRefused = false → s.schedule = .main :: ms → s.stopped .mainLoop = true →
    step s = .fault (.agentStopped .mainLoop)) ∧
  (∀ (s : State) (ms : List Move), s.configurationRefused = false → s.schedule = .tick :: ms → s.stopped .timer = true →
    step s = .fault (.agentStopped .timer)) ∧
  (∀ s : State, s.configurationRefused = false → s.schedule = [] → s.stopped .timer = true →
    step s = .fault (.agentStopped .timer) ∨ (s.stopped .mainLoop = false ∧ step s = exec s.phase.operation s.drawTick.2)) ∧
  (∀ (s : State) (p : Packet) (i : Instr) (ms : List Move), s.configurationRefused = false → s.schedule = .request p :: ms →
    (readPacket p = .ok (.operation i) ∨ readPacket p = .ok .iteration ∧ i = .loopTop) →
    (s.stopped (issuer i) = true → step s = .fault (.agentStopped (issuer i))) ∧
    (s.stopped (issuer i) = false → admittedIn i s.phase = false → step s = .refused (.notAdmitted i)))

/-- Words written in the spec's forms decode to the operations the model reads in them: a line of R93 for each family, and the frames of
R82 and R83. That `policy` is the main-loop step `LOOP_POLICY` and `F1` the frame numbered 1 is the model's choice (log 10); that the
frame `[1A,00,00,34,02]`, of the policy's shape by R88, is read as the row `BUS_POLICY_BURST` is too (log 11). -/
def Obligations.SpecFormsDecode : Prop :=
  decode (.line [115, 101, 116, 70, 114, 101, 113, 117, 101, 110, 99, 121, 40, 48, 120, 52, 48, 44, 32, 49, 48, 48, 48, 41]) =
    .ok (.setFrequency 0x40 1000) ∧
  decode (.line [112, 111, 108, 105, 99, 121]) = .ok .loopPolicy ∧
  decode (.line [116, 105, 99, 107]) = .ok .timerTick ∧
  decode (.line [100, 105, 115, 112, 97, 116, 99, 104, 40, 70, 49, 41]) = .ok (.loopDispatch 1) ∧
  decode (.line [115, 116, 97, 114, 116, 117, 112]) = .ok .startup ∧
  decode (.busWrite 0x40 [0xFE, 0x06]) = .ok (.busWriteReg 0x40 0xFE 0x06) ∧
  decode (.busWrite 0x40 [0x42, 0x34, 0x12, 0xCD, 0xAB]) = .ok (.busChannelBurst 0x40 0x42 0x34 0x12 0xCD 0xAB) ∧
  decode (.busWrite 0x40 [0x1A, 0x00, 0x00, 0x34, 0x02]) = .ok (.busPolicyBurst 0x40 0x1A 0x34 0x2) ∧
  decode (.busRead 0x40 [0x00, 0x7F]) = .ok (.busReadReg 0x40 0x00 0x7F)

/-! ### Reset and configuration -/

/-- The state right after reset (R39, R230). The values are the spec's decisions D10 and D11; the inputs, the node identifier, the
compare register and the chip hold free values (log 4, log 5), so nothing can be concluded from them. -/
def Obligations.ResetState : Prop :=
  State.reset.cycleDue = false ∧ State.reset.phase = .startup ∧ (∀ i : Fin 32, State.reset.cache[i.val] = ⟨0, 0⟩) ∧
  State.reset.ctrl = ⟨State.reset.params.chip, none, none⟩ ∧ State.reset.bus = [] ∧ State.reset.faults = [] ∧
  State.reset.refused = false ∧ State.reset.params = Config.params.set ∧
  (∀ r, Memory.read State.reset.chip r = Config.chipPowerOn r)

/-- A parameter set is admitted exactly when it meets every constraint of R8 and R205; one that does not is refused at configuration
with the parameter recorded (R52, R202, R203). Which parameter is named where several constraints are broken is the model's choice
(log 18), and so is that every step of such a machine ends in the fault `configurationRefused` (log 12). -/
def Obligations.ConfigurationChecksParameters : Prop :=
  (∀ p : Params, p.ok = true ↔
    p.chipAddr ≤ 127 ∧ p.modeReg ≤ 255 ∧ p.prescaleReg ≤ 255 ∧ p.prescaleReg ≠ p.modeReg ∧ p.channelBase + 63 ≤ 255 ∧
    ¬ (p.channelBase ≤ p.modeReg ∧ p.modeReg ≤ p.channelBase + 63) ∧
    ¬ (p.channelBase ≤ p.prescaleReg ∧ p.prescaleReg ≤ p.channelBase + 63) ∧
    ∃ k, p.fCpu = 64000 * (k + 1) ∧ k < 2 ^ p.timerWidth) ∧
  (∀ p : Params, p.ok = true → State.configure p = State.ofParams p) ∧
  (∀ p : Params, p.ok = false → ∃ name, p.violation = some name ∧
    (State.configure p).faults = [⟨.paramConstraint, .parameter name⟩] ∧
    (State.configure p).refused = true ∧
    ∀ ms, step ((State.configure p).setSchedule ms) = .fault .configurationRefused)

/-- The compare value times its divider gives the 1 ms period: `compareValue = F_CPU / 64000 - 1`, below `2^TIMER_WIDTH` (R205). -/
def Obligations.TimerCompareGivesOneMillisecond : Prop :=
  ∀ p : Params, p.ok = true → 64 * (timerCompareOf p + 1) * 1000000 = p.fCpu * 1000 ∧ timerCompareOf p < 2 ^ p.timerWidth

/-! ### The prescaler calculator -/

/-- `COMPUTE_PRESCALE` on a frequency of at least 1 returns the exact formula of R111, rounded by `floor(x + 1/2)` and clamped to
0..255, and changes nothing else; on 0 it records `FREQ_ZERO`. That the byte is returned in a field is the model's own (log 6). -/
def Obligations.ComputePrescaleResult : Prop :=
  (∀ (s : State) (f : Nat), 1 ≤ f → ∃ b : Byte, exec (.computePrescale (f : Rat)) s = .next { s with returned := some b } ∧
    (b.toNat : Int) = min 255 (max 0 (Int.floor ((1953125 : Rat) / (288 * (f : Rat)) - 1 + 1 / 2)))) ∧
  (∀ s : State, exec (.computePrescale 0) s =
    .next { s with faults := s.faults ++ [⟨.freqZero, .operation (.computePrescale 0) .caller⟩] })

/-- For an integer frequency the formula never falls halfway between two integers, so no tie rule is needed (R111 corner case (a)). -/
def Obligations.PrescaleNeverTies : Prop :=
  ∀ (f : Nat) (k : Int), 1 ≤ f → prescaleQuotient f ≠ (k : Rat) + 1 / 2

/-- The prescale does not rise when the frequency does (R111 corner case (d)). -/
def Obligations.PrescaleNonIncreasing : Prop :=
  ∀ (f g : Nat) (b c : Byte), 1 ≤ f → f ≤ g → prescaleOf f = .ok b → prescaleOf g = .ok c → c.toNat ≤ b.toNat

/-- Breakpoints of table V1: 255 exactly up to 26 Hz, 250 exactly at 27 Hz, 67 exactly at 100 Hz, 6 exactly for 905..1043 Hz, 0 exactly
from 4522 Hz on (R111 corner cases (b) and (c), R117). -/
def Obligations.PrescaleBreakpoints : Prop :=
  ∀ f : Nat, 1 ≤ f → (prescaleOf f = .ok 255 ↔ f ≤ 26) ∧ (prescaleOf f = .ok 250 ↔ f = 27) ∧ (prescaleOf f = .ok 67 ↔ f = 100) ∧
    (prescaleOf f = .ok 6 ↔ 905 ≤ f ∧ f ≤ 1043) ∧ (prescaleOf f = .ok 0 ↔ 4522 ≤ f)

/-! ### The channel driver -/

/-- `SET_FREQUENCY` in `Startup`, on a controller not yet programmed: the read, the four writes and the wait of R112 in order, with
the byte of `COMPUTE_PRESCALE`; the controller records frequency and prescale; nothing else of the block changes, and at the chip only
the mode and prescale registers can (R84, R85, R112, R234, R235). -/
def Obligations.SetFrequencyPrograms : Prop :=
  ∀ (s : State) (a f : Nat), a ≤ 127 → 1 ≤ f → s.phase = .startup → s.ctrl.prescale = none →
    ∃ p chip oracle, prescaleOf f = .ok p ∧
      exec (.setFrequency a (f : Rat)) s = .next { s with
        bus := s.bus ++ programmingEvents s.params (BitVec.ofNat 7 a) s.drawByte.1 p
        ctrl := ⟨s.ctrl.busAddress, some f, some p⟩, chip := chip, oracle := oracle } ∧
      (BitVec.ofNat 7 a ≠ s.params.chip → chip = s.chip) ∧
      ∀ q, q ≠ s.params.mode.toNat → q ≠ s.params.prescale.toNat → Memory.read chip q = Memory.read s.chip q

/-- R84: of a byte `old` read from the mode register, the frequency sequence writes to that register, in order, `old | 0x10`, `old` and
`old | 0xA0`, and no bit but 4, 5 and 7 of any of them differs from `old`. -/
def Obligations.ModeRegisterBytes : Prop :=
  ∀ (s : State) (a f : Nat), s.params.ok = true → a ≤ 127 → 1 ≤ f → s.phase = .startup → s.ctrl.prescale = none →
    ∃ (t : State) (old : Byte) (writes : List Byte), exec (.setFrequency a (f : Rat)) s = .next t ∧
      (t.bus.drop s.bus.length).head? = some (.read (BitVec.ofNat 7 a) s.params.mode old) ∧
      writes = (t.bus.drop s.bus.length).filterMap (fun e => match e with
        | .write _ [r, v] => if r = s.params.mode then some v else none
        | _ => none) ∧
      writes = [old ||| 0x10, old, old ||| 0xA0] ∧
      ∀ v ∈ writes, ∀ k, k ≠ 4 → k ≠ 5 → k ≠ 7 → v.getLsbD k = old.getLsbD k

/-- `SET_FREQUENCY` outside `Startup` or a second time records `RUNTIME_FREQUENCY_CHANGE`, checked before the frequency 0, which
records `FREQ_ZERO` before any bus event; nothing else changes (R112, R203, R207). -/
def Obligations.SetFrequencyRefused : Prop :=
  (∀ (s : State) (a f : Nat), a ≤ 127 → (s.phase ≠ .startup ∨ s.ctrl.prescale ≠ none) →
    exec (.setFrequency a (f : Rat)) s = .next { s with
      faults := s.faults ++ [⟨.runtimeFrequencyChange, .operation (.setFrequency a (f : Rat)) .caller⟩], refused := true }) ∧
  (∀ (s : State) (a : Nat), a ≤ 127 → s.phase = .startup → s.ctrl.prescale = none →
    exec (.setFrequency a 0) s = .next { s with
      faults := s.faults ++ [⟨.freqZero, .operation (.setFrequency a 0) .caller⟩] })

/-- `WRITE_REGISTER` emits one frame `[reg, value]` to the address as given; at the chip that one register takes the value or keeps its
own (R54, R110, R113). -/
def Obligations.WriteRegisterResult : Prop :=
  ∀ (s : State) (a r v : Nat), a ≤ 127 → r ≤ 255 → v ≤ 255 → ∃ chip oracle,
    exec (.writeRegister a r v) s = .next { s with
      bus := s.bus ++ [.write (BitVec.ofNat 7 a) [BitVec.ofNat 8 r, BitVec.ofNat 8 v]], chip := chip, oracle := oracle } ∧
    WriteEffect s.params (BitVec.ofNat 7 a) (BitVec.ofNat 8 r) [BitVec.ofNat 8 v] s.chip chip

/-- `SET_CHANNEL_OUTPUT` on a wired channel emits the 5-byte burst, register number first, each count low byte first and unmasked; at
the chip the four registers of the channel take their byte or keep their own (R54, R86, R87, R114). -/
def Obligations.SetChannelOutputResult : Prop :=
  ∀ (s : State) (a c on off : Nat), a ≤ 127 → c < 16 → on ≤ 65535 → off ≤ 65535 → ∃ chip oracle,
    exec (.setChannelOutput a (c : Rat) on off) s = .next { s with
      bus := s.bus ++ [burstEvent s.params (BitVec.ofNat 7 a) c ⟨BitVec.ofNat 16 on, BitVec.ofNat 16 off⟩]
      chip := chip, oracle := oracle } ∧
    WriteEffect s.params (BitVec.ofNat 7 a) (BitVec.ofNat 8 (s.params.channelBase + 4 * c))
      [BitVec.ofNat 8 (on % 256), BitVec.ofNat 8 (on / 256), BitVec.ofNat 8 (off % 256), BitVec.ofNat 8 (off / 256)] s.chip chip

/-- R116: on every channel of 16 and above, whatever the address, the counts and the state, `SET_CHANNEL_OUTPUT` completes with no bus
event and no change of any kind; operands outside their domains are refused before the gate is reached. -/
def Obligations.ChannelGate : Prop :=
  (∀ (s : State) (a c on off : Nat), a ≤ 127 → 16 ≤ c → on ≤ 65535 → off ≤ 65535 →
    exec (.setChannelOutput a (c : Rat) on off) s = .next s) ∧
  (∀ (s : State) (a c on off : Nat), 16 ≤ c → (127 < a ∨ 65535 < on ∨ 65535 < off) →
    exec (.setChannelOutput a (c : Rat) on off) s = .next { s with
      faults := s.faults ++ [⟨if 127 < a then .addrRange else .countRange,
        .operation (.setChannelOutput a (c : Rat) on off) .caller⟩], refused := true })

/-- `READ_REGISTER` emits one read event with the drawn byte, which it returns, and changes nothing else; any byte can be drawn
(R14, R115). The field that holds the returned byte is the model's own (log 6). -/
def Obligations.ReadRegisterResult : Prop :=
  (∀ (s : State) (a r : Nat), a ≤ 127 → r ≤ 255 →
    exec (.readRegister a r) s = .next { s with
      bus := s.bus ++ [.read (BitVec.ofNat 7 a) (BitVec.ofNat 8 r) s.drawByte.1]
      returned := some s.drawByte.1, oracle := s.drawByte.2.oracle }) ∧
  (∀ (s : State) (v : Byte) (vs : List Byte), s.oracle.reads = v :: vs → s.drawByte.1 = v)

/-- Operands outside their domains are refused by name in the order `ADDR_RANGE`, `BYTE_RANGE`, `COUNT_RANGE`, `OPERAND_TYPE`: the
refusal is recorded with the operation and its operands, `refused` is set, and nothing else changes (R89, R202, R203, R207). -/
def Obligations.DomainRefusals : Prop :=
  ∀ (s : State) (i : Instr) (r : Reason),
    (match i with
      | .computePrescale f => ¬ (f.den = 1 ∧ 0 ≤ f.num) ∧ r = .operandType
      | .setFrequency a f => (127 < a ∧ r = .addrRange) ∨ (a ≤ 127 ∧ ¬ (f.den = 1 ∧ 0 ≤ f.num) ∧ r = .operandType)
      | .writeRegister a reg v => (127 < a ∧ r = .addrRange) ∨ (a ≤ 127 ∧ (255 < reg ∨ 255 < v) ∧ r = .byteRange)
      | .setChannelOutput a c on off => (127 < a ∧ r = .addrRange) ∨
          (a ≤ 127 ∧ (65535 < on ∨ 65535 < off) ∧ r = .countRange) ∨
          (a ≤ 127 ∧ on ≤ 65535 ∧ off ≤ 65535 ∧ ¬ (c.den = 1 ∧ 0 ≤ c.num) ∧ r = .operandType)
      | .readRegister a reg => (127 < a ∧ r = .addrRange) ∨ (a ≤ 127 ∧ 255 < reg ∧ r = .byteRange)
      | _ => False) →
    exec i s = .next { s with faults := s.faults ++ [⟨r, .operation i .caller⟩], refused := true }

/-- Each data byte of a write to the chip lands or leaves its register as it was, independently of the others: every choice is
possible, and the draw decides (R54). -/
def Obligations.BytesLandIndependently : Prop :=
  ∀ (s : State) (r : Byte) (data : List Byte) (hits : List Bool) (rest : List Bool),
    hits.length = data.length → s.oracle.landed = hits ++ rest →
    (∀ j (h : j < data.length) (h' : j < hits.length),
      Memory.read (busWrite s.params.chip (r :: data) s).chip (r.toNat + j) =
        if hits[j] then data[j] else Memory.read s.chip (r.toNat + j)) ∧
    (∀ q, (q < r.toNat ∨ r.toNat + data.length ≤ q) →
      Memory.read (busWrite s.params.chip (r :: data) s).chip q = Memory.read s.chip q)

/-! ### Bus frames -/

/-- The four frames of the table complete: each puts its one event on the bus, and its data bytes land or not (R54, R82, R83). A burst
that starts at no wired channel's register is R91's `FOREIGN` and is refused by name (log 13). -/
def Obligations.BusFramesResult : Prop :=
  (∀ (s : State) (a : BusAddr) (r v : Byte), ∃ chip oracle, exec (.busWriteReg a r v) s = .next { s with
      bus := s.bus ++ [.write a [r, v]], chip := chip, oracle := oracle } ∧ WriteEffect s.params a r [v] s.chip chip) ∧
  (∀ (s : State) (a : BusAddr) (c : Nat) (r b1 b2 b3 b4 : Byte), c < 16 → r.toNat = s.params.channelBase + 4 * c →
    ∃ chip oracle, exec (.busChannelBurst a r b1 b2 b3 b4) s = .next { s with
      bus := s.bus ++ [.write a [r, b1, b2, b3, b4]], chip := chip, oracle := oracle } ∧
      WriteEffect s.params a r [b1, b2, b3, b4] s.chip chip) ∧
  (∀ (s : State) (a : BusAddr) (c : Nat) (r b3 : Byte) (b4 : BitVec 4), c < 16 → r.toNat = s.params.channelBase + 4 * c →
    ∃ chip oracle, exec (.busPolicyBurst a r b3 b4) s = .next { s with
      bus := s.bus ++ [.write a [r, 0, 0, b3, BitVec.ofNat 8 b4.toNat]], chip := chip, oracle := oracle } ∧
      WriteEffect s.params a r [0, 0, b3, BitVec.ofNat 8 b4.toNat] s.chip chip) ∧
  (∀ (s : State) (a : BusAddr) (r v : Byte), exec (.busReadReg a r v) s = .next { s with
      bus := s.bus ++ [.read a r v], returned := some v }) ∧
  (∀ (s : State) (a : BusAddr) (r b1 b2 b3 b4 : Byte), (∀ c < 16, r.toNat ≠ s.params.channelBase + 4 * c) →
    exec (.busChannelBurst a r b1 b2 b3 b4) s = .refused .foreignFrame) ∧
  (∀ (s : State) (a : BusAddr) (r b3 : Byte) (b4 : BitVec 4), (∀ c < 16, r.toNat ≠ s.params.channelBase + 4 * c) →
    exec (.busPolicyBurst a r b3 b4) s = .refused .foreignFrame)

/-- `WRITE_REGISTER`, `READ_REGISTER` and `SET_CHANNEL_OUTPUT` with operands in their domains are the transactions `BUS_WRITE_REG`,
`BUS_READ_REG` (of the byte drawn) and `BUS_CHANNEL_BURST` of the frame each emits (R82, R83, R86, R87), and the rows `BUS_CHANNEL_BURST`
and `BUS_POLICY_BURST` give a frame they share one meaning (R88). That the frames are operations of their own and that a shared frame
is read as the second row is the model's choice (log 11). -/
def Obligations.OperationsAreTheirFrames : Prop :=
  (∀ (s : State) (a r v : Nat), a ≤ 127 → r ≤ 255 → v ≤ 255 →
    exec (.writeRegister a r v) s = exec (.busWriteReg (BitVec.ofNat 7 a) (BitVec.ofNat 8 r) (BitVec.ofNat 8 v)) s) ∧
  (∀ (s : State) (a c on off : Nat), s.params.ok = true → a ≤ 127 → c < 16 → on ≤ 65535 → off ≤ 65535 →
    exec (.setChannelOutput a (c : Rat) on off) s =
      exec (.busChannelBurst (BitVec.ofNat 7 a) (BitVec.ofNat 8 (s.params.channelBase + 4 * c)) (BitVec.ofNat 8 (on % 256))
        (BitVec.ofNat 8 (on / 256)) (BitVec.ofNat 8 (off % 256)) (BitVec.ofNat 8 (off / 256))) s) ∧
  (∀ (s : State) (a r : Nat), a ≤ 127 → r ≤ 255 →
    exec (.readRegister a r) s = exec (.busReadReg (BitVec.ofNat 7 a) (BitVec.ofNat 8 r) s.drawByte.1) s.drawByte.2) ∧
  (∀ (i : Instr) (s : State), exec i.canonical s = exec i s)

/-! ### The fail-safe policy -/

/-- R141: the outputs are enabled exactly when the run state is not `Stopped` and the error code is 0; all three other run states with
error code 0 enable them. -/
def Obligations.EnableDecision : Prop :=
  (∀ (rs : RunState) (ec : Nat), enabled rs ec = true ↔ rs ≠ .stopped ∧ ec = 0) ∧
  (∀ s : State, s.outputMode = .live ↔ (s.runState = .init ∨ s.runState = .preOperational ∨ s.runState = .operational) ∧
    s.errorCode = 0)

/-- `POLICY_EVAL` completes in every state: each wired channel's pair becomes its target (0 when disabled, the table entry's low 12 bits
when enabled, on-count 0), one burst goes out for each pair that changes, in ascending order, and nothing else of the block changes;
`LOOP_POLICY` is the same evaluation and goes on to `BusCheck` (R142 to R147, R149, R181). -/
def Obligations.PolicyAppliesTargets : Prop :=
  ∀ s : State, ∃ t, exec .policyEval s = .next t ∧ PolicyOutcome s t ∧ exec .loopPolicy s = .next { t with phase := .busCheck }

/-- R143: a channel of 16 and above is skipped entirely: an evaluation leaves its pair as it was, makes no driver call for it, and
nothing it does depends on the pair or the table entry of such a channel. -/
def Obligations.SkippedChannels : Prop :=
  ∀ (s : State) (d : Vector Count 32) (pairs : Vector Pair 32),
    (∀ i : Fin 32, i.val < 16 → d[i.val] = s.desired[i.val] ∧ pairs[i.val] = s.cache[i.val]) →
    ∃ t u, exec .policyEval s = .next t ∧ exec .policyEval { s with desired := d, cache := pairs } = .next u ∧
      u = { t with desired := d, cache := u.cache } ∧ (∀ i : Fin 32, i.val < 16 → u.cache[i.val] = t.cache[i.val]) ∧
      (∀ i : Fin 32, 16 ≤ i.val → t.cache[i.val] = s.cache[i.val] ∧ u.cache[i.val] = pairs[i.val]) ∧
      ∀ e ∈ t.bus.drop s.bus.length, ∃ i < 16, ∃ p : Pair, e = burstEvent s.params s.ctrl.busAddress i p

/-- A second evaluation with the same inputs emits nothing and changes nothing (R150). -/
def Obligations.PolicyIsIdempotent : Prop :=
  ∀ s t : State, exec .policyEval s = .next t → exec .policyEval t = .next t

/-- An evaluation in which every wired pair already equals its target emits nothing and changes nothing, whatever the chip holds: a lost
burst is not retried (R35, R153), and a channel that stays at `(0,0)` is never written (R233). -/
def Obligations.UnchangedTargetsEmitNothing : Prop :=
  ∀ s : State, (∀ i : Fin 32, i.val < 16 → s.cache[i.val] = s.target i) →
    exec .policyEval s = .next s ∧ exec .loopPolicy s = .next { s with phase := .busCheck }

/-- Stopped or in error, one evaluation of the main loop leaves every wired channel's last-applied pair at `(0,0)` and emits one all-zero
burst for each that was not there, in ascending order; while the outputs stay disabled no later evaluation emits anything (R144, R148,
R154). This is about the pairs and the bursts: whether a burst lands (R153, R233, log 15) and what off-count 0 does at the chip (R92 (c))
it does not say. -/
def Obligations.FailSafeEmitsOffBurstsOnce : Prop :=
  ∀ s : State, (s.runState = .stopped ∨ s.errorCode ≠ 0) →
    ∃ t, exec .loopPolicy s = .next t ∧ (∀ i : Fin 32, i.val < 16 → t.cache[i.val] = ⟨0, 0⟩) ∧
      t.bus = s.bus ++ (wiredChannels.filter fun i => s.cache[i.val] ≠ ⟨0, 0⟩).map (fun i =>
        .write s.ctrl.busAddress [BitVec.ofNat 8 (s.params.channelBase + 4 * i.val), 0, 0, 0, 0]) ∧
      ∀ u : State, u.cache = t.cache → (u.runState = .stopped ∨ u.errorCode ≠ 0) →
        exec .loopPolicy u = .next { u with phase := .busCheck }

/-- What the off bursts do to the chip's registers depends on the bytes that land (R54, log 15): where every byte lands, the four registers
of each wired channel whose pair was not `(0,0)` hold 0 after the evaluation; where none lands, the chip is as it was, and the block does
not see the difference (R153). -/
def Obligations.FailSafeReachesTheChipWhereBytesLand : Prop :=
  ∀ (s : State) (rest : List Bool), s.params.ok = true → s.ctrl.busAddress = s.params.chip →
    (s.runState = .stopped ∨ s.errorCode ≠ 0) →
    (s.oracle.landed = List.replicate 64 true ++ rest → ∃ t, exec .policyEval s = .next t ∧
      ∀ i : Fin 32, i.val < 16 → s.cache[i.val] ≠ ⟨0, 0⟩ → ∀ k < 4,
        Memory.read t.chip (s.params.channelBase + 4 * i.val + k) = 0) ∧
    (s.oracle.landed = List.replicate 64 false ++ rest → ∃ t, exec .policyEval s = .next t ∧ t.chip = s.chip ∧
      ∀ i : Fin 32, i.val < 16 → t.cache[i.val] = ⟨0, 0⟩)

/-- Everything an evaluation emits is a frame of the policy's shape, at most one for each of the 16 wired channels, in ascending order of
channel, well formed (R88, R118, R151). That such a frame decodes to the row `BUS_POLICY_BURST` is the model's choice (log 11). -/
def Obligations.PolicyEmitsPolicyBursts : Prop :=
  ∀ s t : State, s.params.ok = true → exec .policyEval s = .next t →
    ∃ bursts : List (Nat × Byte × BitVec 4), bursts.length ≤ 16 ∧ (bursts.map Prod.fst).Pairwise (· < ·) ∧
      t.bus = s.bus ++ bursts.map (fun (i, c, d) => .write s.ctrl.busAddress
        [BitVec.ofNat 8 (s.params.channelBase + 4 * i), 0, 0, c, BitVec.ofNat 8 d.toNat]) ∧
      ∀ i c d, (i, c, d) ∈ bursts → i < 16 ∧ ∃ r : Byte, r.toNat = s.params.channelBase + 4 * i ∧
        decode (.busWrite s.ctrl.busAddress [r, 0, 0, c, BitVec.ofNat 8 d.toNat]) =
          .ok (.busPolicyBurst s.ctrl.busAddress r c d) ∧
        (Instr.busPolicyBurst s.ctrl.busAddress r c d).wellFormed s.params = true

/-! ### The scheduler -/

/-- R171: a tick raises the cycle-due flag and does nothing else, when the flag is up already too; it may fall between any two steps of
the main loop, in every phase. -/
def Obligations.TimerTickResult : Prop :=
  (∀ s : State, exec .timerTick s = .next { s with cycleDue := true }) ∧
  (∀ (s : State) (ms : List Move), s.configurationRefused = false → s.stopped .timer = false → s.schedule = .tick :: ms →
    step s = .next { s with cycleDue := true, schedule := ms })

/-- R176: `LOOP_TOP` reads the flag and writes only the phase. -/
def Obligations.LoopTopResult : Prop :=
  ∀ s : State, exec .loopTop s = .next { s with phase := if s.cycleDue = true then .clear else .busCheck }

/-- R177: `LOOP_CLEAR` takes the flag down without reading it and goes on to the policy. -/
def Obligations.LoopClearResult : Prop :=
  ∀ s : State, exec .loopClear s = .next { s with cycleDue := false, phase := .policy }

/-- R178, R180: `LOOP_BUSCHECK` moves to `Dispatch` of the frame that is present, else to `Sleep`, and touches nothing else; either answer
can be drawn. `LOOP_SLEEP` goes back to `Top`. -/
def Obligations.BusCheckAndSleepResult : Prop :=
  (∀ s : State, exec .loopBusCheck s = .next { s with
    phase := (match s.drawFrame.1 with | some f => .dispatch f | none => .sleep), oracle := s.drawFrame.2.oracle }) ∧
  (∀ (s : State) (f : Option Frame) (fs : List (Option Frame)), s.oracle.frames = f :: fs → s.drawFrame.1 = f) ∧
  (∀ s : State, exec .loopSleep s = .next { s with phase := .top })

/-- R179: `LOOP_DISPATCH` may change the three inputs and nothing else of the block, goes back to `Top`, and what the stack makes of the
inputs is a draw: every run state, error code and table can result. -/
def Obligations.DispatchDrawsInputs : Prop :=
  (∀ (s : State) (f : Frame), ∃ rs ec d oracle, exec (.loopDispatch f) s = .next { s with
    phase := .top, runState := rs, errorCode := ec, desired := d, oracle := oracle }) ∧
  (∀ (rs : RunState) (ec : Nat) (d : Vector Count 32), ∃ c : List HostChange, ∀ (s : State) (f : Frame) (cs : List (List HostChange)),
    s.oracle.changes = c :: cs → exec (.loopDispatch f) s = .next { s with
      phase := .top, runState := rs, errorCode := ec, desired := d, oracle := { s.oracle with changes := cs } })

/-- One iteration of the main loop is its steps in order, five from `Top` with a cycle due, three without, with any number of ticks between
any two of them (R184, R185); and a request of `iteration` runs those steps, with ticks between them by a draw, which can be any (R94;
that a request is so expanded and the ticks so drawn is log 20). -/
def Obligations.IterationIsMainLoopSteps : Prop :=
  (∀ (s : State) (g : TickGaps) (ms : List Move), s.mainLoopRuns → s.stopped .timer = false → s.phase = .top →
    Host.Core.run Sys2Proof.core (1 + (iterationRest g s.cycleDue).length)
        (s.setSchedule (.main :: (iterationRest g s.cycleDue ++ ms))) =
      .next ((iteration g s).setSchedule ms) ∧ (iteration g s).phase = .top) ∧
  (∀ (s : State) (p : Packet) (ms : List Move), s.mainLoopRuns → s.stopped .timer = false → s.phase = .top →
    readPacket p = .ok .iteration →
    Host.Core.run Sys2Proof.core (1 + (iterationRest s.drawGaps.1 s.cycleDue).length) (s.setSchedule (.request p :: ms)) =
      .next ((iteration s.drawGaps.1 s.drawGaps.2).setSchedule ms)) ∧
  (∀ a b c d, iterationRest ⟨a, b, c, d⟩ true = List.replicate a .tick ++ .main :: (List.replicate b .tick ++ .main ::
      (List.replicate c .tick ++ .main :: (List.replicate d .tick ++ [.main]))) ∧
    iterationRest ⟨a, b, c, d⟩ false = List.replicate a .tick ++ .main :: (List.replicate d .tick ++ [.main])) ∧
  (∀ (s : State) (g : TickGaps) (gs : List TickGaps), s.oracle.gaps = g :: gs → s.drawGaps.1 = g)

/-- A `host:` line announces a change, which the stack makes at its next chance and not before (R93 "happen only inside a `dispatch` or a
`startup`"); a line that is empty or a comment does nothing (R93). That a line is a move of its own and puts the change among the coming
draws is the model's choice (log 20). -/
def Obligations.HostLinesAnnounceChanges : Prop :=
  (∀ (s : State) (p : Packet) (c : HostChange) (ms : List Move), s.configurationRefused = false → s.schedule = .request p :: ms →
    readPacket p = .ok (.host c) → step s = .next { s with schedule := ms, oracle := { s.oracle with
      changes := (s.oracle.changes.headD [] ++ [c]) :: s.oracle.changes.tail } }) ∧
  (∀ (s : State) (p : Packet) (c : HostChange) (f : Frame) (ms : List Move), s.mainLoopRuns → s.phase = .dispatch f →
    s.schedule = .request p :: .main :: ms → readPacket p = .ok (.host c) → s.oracle.changes = [] →
    Host.Core.run Sys2Proof.core 2 s = .next { s.applyChange c with phase := .top, schedule := ms }) ∧
  (∀ (s : State) (p : Packet) (ms : List Move), s.configurationRefused = false → s.schedule = .request p :: ms →
    readPacket p = .ok .nothing → step s = .next { s with schedule := ms })

/-! ### Startup -/

/-- `STARTUP` on a controller not yet programmed: the frequency sequence for 1000 Hz with prescale 6 on the bus, the controller recorded,
node identifier, run state and timer set, and the main loop at `Top`; the flag, the cache and the records are untouched, and at the chip
only the mode and prescale registers can change (R112, R231, R232). The error code and the table are the stack's to set (C11). -/
def Obligations.StartupResult : Prop :=
  ∀ s : State, s.phase = .startup → s.ctrl.prescale = none → ∃ ec d chip oracle,
    exec .startup s = .next { s with
      bus := s.bus ++ programmingEvents s.params s.params.chip s.drawByte.1 6
      ctrl := ⟨s.ctrl.busAddress, some 1000, some 6⟩, phase := .top, runState := s.params.initRunState
      nodeId := s.params.nodeId, timerCompare := timerCompareOf s.params, errorCode := ec, desired := d
      chip := chip, oracle := oracle } ∧
    ∀ q, q ≠ s.params.mode.toNat → q ≠ s.params.prescale.toNat → Memory.read chip q = Memory.read s.chip q

/-- Where the frequency was programmed already, `STARTUP` records `RUNTIME_FREQUENCY_CHANGE` for its call and does nothing else, and the
main loop takes no further step (R112, R203, R231). -/
def Obligations.StartupStopsOnRefusal : Prop :=
  ∀ s : State, (s.phase ≠ .startup ∨ s.ctrl.prescale ≠ none) → ∃ t,
    exec .startup s = .next t ∧
    t = { s with refused := true, faults := s.faults ++ [⟨.runtimeFrequencyChange,
      .operation (.setFrequency s.params.chip.toNat 1000) .mainLoop⟩] } ∧
    t.stopped .mainLoop = true

/-! ### Whole-machine rules -/

/-- R22: only a tick raises the cycle-due flag, only `LOOP_CLEAR` takes it down, and only `LOOP_TOP` reads it (what any other operation
does to everything but the flag does not depend on it); it is no counter: raising it when it is up leaves the state as it is. -/
def Obligations.FlagHasOneSetterOneClearerOneReader : Prop :=
  (∀ s t : State, step s = .next t → s.cycleDue = false → t.cycleDue = true → s.nextOperation = some .timerTick) ∧
  (∀ s t : State, step s = .next t → s.cycleDue = true → t.cycleDue = false → s.nextOperation = some .loopClear) ∧
  (∀ (i : Instr) (s t : State) (b : Bool), i ≠ .loopTop → exec i s = .next t →
    ∃ c, exec i { s with cycleDue := b } = .next { t with cycleDue := c }) ∧
  (∀ s : State, s.cycleDue = true → exec .timerTick s = .next s)

/-- Each field of the block, the chip and the timer has its owners: the flag the tick and `Clear`, the phase the main loop's steps, the
cache the policy, the controller `setFrequency`, the bus history and the chip the operations that put a transaction on the bus, the record
the operations that can raise an outcome, the inputs a dispatch or startup, the node identifier and the timer startup, the parameters
nobody (R21, R22, R24, R25, R34, R54, R60, R203). The model's own `returned` belongs to the operations that return a byte (log 6);
any step can change `schedule` and `oracle`, its other two (log 7, log 8, log 20). -/
def Obligations.FieldsHaveOneOwner : Prop :=
  ∀ s t : State, step s = .next t →
    (t.cycleDue ≠ s.cycleDue → s.nextOperation = some .timerTick ∨ s.nextOperation = some .loopClear) ∧
    (t.phase ≠ s.phase → ∃ i, s.nextOperation = some i ∧ movesPhase i = true) ∧
    (t.cache ≠ s.cache → s.nextOperation = some .policyEval ∨ s.nextOperation = some .loopPolicy) ∧
    (t.ctrl ≠ s.ctrl → s.nextOperation = some .startup ∨ ∃ a f, s.nextOperation = some (.setFrequency a f)) ∧
    (t.bus ≠ s.bus → ∃ i, s.nextOperation = some i ∧ usesBus i = true) ∧
    (t.chip ≠ s.chip → ∃ i, s.nextOperation = some i ∧ writesChip i = true) ∧
    ((t.faults ≠ s.faults ∨ t.refused ≠ s.refused) → ∃ i, s.nextOperation = some i ∧ mayRecord i = true) ∧
    ((t.runState ≠ s.runState ∨ t.errorCode ≠ s.errorCode ∨ t.desired ≠ s.desired) →
      s.nextOperation = some .startup ∨ ∃ f, s.nextOperation = some (.loopDispatch f)) ∧
    ((t.nodeId ≠ s.nodeId ∨ t.timerCompare ≠ s.timerCompare) → s.nextOperation = some .startup) ∧
    (t.returned ≠ s.returned → ∃ i, s.nextOperation = some i ∧ returnsByte i = true) ∧
    t.params = s.params

/-- The bus history and the record of outcomes only grow, and `refused` is never cleared (R21, R37, R203). -/
def Obligations.HistoryAndRecordOnlyGrow : Prop :=
  ∀ s t : State, step s = .next t →
    s.bus <+: t.bus ∧ s.faults <+: t.faults ∧ (s.refused = true → t.refused = true)

/-- An agent that a recorded outcome has stopped stays stopped, and no operation of its runs (R203). -/
def Obligations.StoppedAgentTakesNoStep : Prop :=
  (∀ (s t : State) (a : Agent), step s = .next t → s.stopped a = true → t.stopped a = true) ∧
  (∀ (s : State) (i : Instr), s.nextOperation = some i → s.stopped (issuer i) = false)

/-- The phase moves only along the main loop's cycle, and an operation of the main loop runs only in its phase: the policy never in
`Startup`, a dispatch only of the frame that was received (R24, R170, R189). -/
def Obligations.PhaseMovesAlongTheCycle : Prop :=
  (∀ s t : State, step s = .next t → t.phase = s.phase ∨ t.phase.follows s.phase) ∧
  (∀ (s : State) (i : Instr) (p : Phase), s.nextOperation = some i → issuePhase i = some p → s.phase = p)

/-- A scheduled main-loop step always completes (R57, R63, R200): every operation of the main loop answers a next state. -/
def Obligations.MainLoopAlwaysSteps : Prop :=
  ∀ (s : State) (ms : List Move), s.mainLoopRuns → s.schedule = .main :: ms → ∃ t, step s = .next t

/-- Counted from a state in which the main loop has not begun and no cycle is due, the main loop's evaluations (`LOOP_POLICY`) never
outnumber the ticks, whatever the interleaving: ticks collapse and are never queued (R186). `POLICY_EVAL` as an operation of its own
comes only by a request in phase `Policy` (log 19) and is not counted: while nobody disturbs the block it never runs. -/
def Obligations.EvaluationsNeverOutnumberTicks : Prop :=
  ∀ (s : State) (k : Nat), s.phase = .startup → s.cycleDue = false →
    timesRun .loopPolicy k s ≤ timesRun .timerTick k s ∧ (s.undisturbed → timesRun .policyEval k s = 0)

/-- A cycle that is due is served: however ticks fall between them, within five steps of the main loop an evaluation runs (R187; the
bound replaces R180's and R206's fairness). -/
def Obligations.DueCycleIsServed : Prop :=
  ∀ (s : State) (ms : List Move), s.mainLoopRuns → s.stopped .timer = false → s.phase ≠ .startup → s.cycleDue = true →
    (∀ m ∈ ms, m = .tick ∨ m = .main) → 5 ≤ ms.count .main → 1 ≤ timesRun .loopPolicy ms.length (s.setSchedule ms)

/-! ### Encodings -/

/-- Counts go on the bus low byte first and are read back so (R50, R91). -/
def Obligations.CountsAreLittleEndian : Prop :=
  ∀ v : Count, le2 v = [BitVec.ofNat 8 (v.toNat % 256), BitVec.ofNat 8 (v.toNat / 256)] ∧ ofLe2 (lo8 v) (hi8 v) = v ∧
    v.toNat = (lo8 v).toNat + 256 * (hi8 v).toNat

/-- The bus history reads back what the driver did: the event of a single register write, of a channel burst and of a read is classified
as the call that emits it, the frequency sequence as its read and its four writes, and a 5-byte write is a channel's only if the driver
could have emitted it for that channel (R91). -/
def Obligations.ClassifyReadsBackTheDriver : Prop :=
  (∀ (p : Params) (a : BusAddr) (r v : Byte), classify p (.write a [r, v]) = .writeRegister a r v ∧
    classify p (.read a r v) = .readRegister a r) ∧
  (∀ (p : Params) (a : BusAddr) (c : Nat) (on off : Count), p.ok = true → c < 16 →
    classify p (burstEvent p a c ⟨on, off⟩) = .setChannelOutput a c on off) ∧
  (∀ (p : Params) (a : BusAddr) (old v : Byte), (programmingEvents p a old v).map (classify p) =
    [.readRegister a p.mode, .writeRegister a p.mode (old ||| 0x10), .writeRegister a p.prescale v, .writeRegister a p.mode old,
      .notATransaction, .writeRegister a p.mode (old ||| 0xA0)]) ∧
  (∀ (p : Params) (a : BusAddr) (r : Byte) (c : Nat) (b1 b2 b3 b4 : Byte) (on off : Count),
    classify p (.write a [r, b1, b2, b3, b4]) = .setChannelOutput a c on off →
    c < 16 ∧ .write a [r, b1, b2, b3, b4] = burstEvent p a c ⟨on, off⟩) ∧
  (∀ (p : Params) (a : BusAddr) (r b1 b2 b3 b4 : Byte), (∀ c < 16, r.toNat ≠ p.channelBase + 4 * c) →
    classify p (.write a [r, b1, b2, b3, b4]) = .foreign)

/-- Every operation, with every operand it can have, is read back from what it is written as; a channel burst of the policy's shape is
read as the policy's row, with which it shares the frame (R82, R83, R88, R93; log 10, log 11). -/
def Obligations.DecodeEncodeAgree : Prop :=
  ∀ i : Instr, decode (encode i) = .ok i.canonical

/-! ### Invariants -/

/-- Reset meets the invariant and has an empty history; so does every admitted configuration (R39, R52, R230). -/
def Obligations.ResetMeetsInvariant : Prop :=
  Inv State.reset ∧ State.reset.ownHistory ∧ ∀ p : Params, p.ok = true → Inv (State.configure p)

/-- Every step keeps the invariant of the machine (R25, R34, R58, R91, R118, R203, R232 and what `Inv` names). -/
def Obligations.StepKeepsInvariant : Prop :=
  ∀ s t : State, Inv s → step s = .next t → Inv t

/-- While no request disturbs the block, its bus history is empty before startup, then the programming of 1000 Hz (sleep set, prescale,
restore, wait, restart), then policy bursts and nothing else: no channel burst precedes the frequency (R112, R232, R234 to R236). -/
def Obligations.OwnHistoryIsProgrammingThenBursts : Prop :=
  ∀ s t : State, Inv s → s.undisturbed → s.ownHistory → step s = .next t → t.undisturbed ∧ t.ownHistory
end

