-- ==== Sys2Proof/Laws/Decode.lean ====
section
/-!
SUPPORT. What the lexer makes of the pieces the encoder writes (spec/30_encoding.md R93): a name, a number, a fraction, a frame's name,
a punctuation mark, each before whatever may follow it.
-/

namespace Sys2Proof

/-- Tokens read before the rest of a text. -/
def prepend (ts : List Token) : Except DecodeError (List Token) → Except DecodeError (List Token)
  | .error e => .error e
  | .ok us => .ok (ts ++ us)

@[simp] theorem prepend_nil (r : Except DecodeError (List Token)) : prepend [] r = r := by cases r <;> rfl
@[simp] theorem prepend_ok (ts us : List Token) : prepend ts (.ok us) = .ok (ts ++ us) := rfl
theorem prepend_prepend (ts us : List Token) (r : Except DecodeError (List Token)) :
    prepend ts (prepend us r) = prepend (ts ++ us) r := by cases r <;> simp [prepend]

theorem lexFrom_cons {m m' : LexMode} {c : Byte} {out : List Token} (h : lexStep m c = .ok (out, m')) (cs : List Byte) :
    lexFrom m (c :: cs) = prepend out (lexFrom m' cs) := by
  simp only [lexFrom, h]; cases lexFrom m' cs <;> rfl

/-- What may follow a number or a name: nothing, or a character that is neither letter nor digit. -/
def Separated : List Byte → Prop
  | [] => True
  | c :: _ => isLetter c = false ∧ isDigit c = false

theorem lexFresh_out (out : List Token) (c : Byte) :
    lexFresh out c = match lexFresh [] c with
      | .error e => .error e
      | .ok (ts, m) => .ok (out ++ ts, m) := by
  unfold lexFresh
  repeat' split
  all_goals simp_all

/-- A character read where the open token ends closes that token and is read afresh. -/
theorem lexFrom_close {m : LexMode} {out : List Token} {c : Byte} (h : lexStep m c = lexFresh out c) (cs : List Byte) :
    lexFrom m (c :: cs) = prepend out (lexFrom .idle (c :: cs)) := by
  have h₀ : lexStep .idle c = lexFresh [] c := rfl
  rw [lexFresh_out] at h
  cases hf : lexFresh [] c with
  | error e =>
    rw [hf] at h h₀
    simp only [lexFrom, h, h₀]; rfl
  | ok p =>
    rw [hf] at h h₀
    rw [lexFrom_cons h, lexFrom_cons h₀, prepend_prepend]

/-! ### Numbers -/

/-- The mode after the digits of `n`. -/
def numberMode (n : Nat) : LexMode := if n = 0 then .afterZero else .inDecimal n

theorem lexFrom_numberMode (n : Nat) {rest : List Byte} (h : Separated rest) :
    lexFrom (numberMode n) rest = prepend [.number n] (lexFrom .idle rest) := by
  cases rest with
  | nil => unfold numberMode; split <;> simp [lexFrom, lexEnd, *]
  | cons c cs =>
    obtain ⟨hl, hd⟩ := h
    apply lexFrom_close
    have hx : c.toNat ≠ 120 := by
      intro e; simp [isLetter, e] at hl
    unfold numberMode; split
    · simp [lexStep, lexAfterNumber, *]
    · simp [lexStep, hd, lexAfterNumber, hl]

theorem decimalDigits_append (fuel n : Nat) (acc : List Byte) : decimalDigits fuel n acc = decimalDigits fuel n [] ++ acc := by
  induction fuel generalizing n acc with
  | zero => rfl
  | succ k ih =>
    simp only [decimalDigits]
    split
    · rfl
    · rw [ih, ih _ [_]]; simp

theorem digit_isDigit {d : Nat} (h : d < 10) : isDigit (BitVec.ofNat 8 (48 + d)) = true ∧ (BitVec.ofNat 8 (48 + d)).toNat = 48 + d := by
  have : (BitVec.ofNat 8 (48 + d)).toNat = 48 + d := by simp only [BitVec.toNat_ofNat]; omega
  simp only [isDigit, this]; simp; omega

theorem lexStep_digit_idle {d : Nat} (h : d < 10) :
    lexStep .idle (BitVec.ofNat 8 (48 + d)) = .ok ([], numberMode d) := by
  interval_cases d <;> rfl

theorem lexStep_digit_number {n d : Nat} (hn : n ≠ 0) (h : d < 10) :
    lexStep (numberMode n) (BitVec.ofNat 8 (48 + d)) = .ok ([], numberMode (10 * n + d)) := by
  obtain ⟨h1, h2⟩ := digit_isDigit h
  simp [numberMode, hn, lexStep, h1, h2]

theorem lexFrom_digits (fuel n : Nat) (h : n < fuel) (rest : List Byte) :
    lexFrom .idle (decimalDigits fuel n [] ++ rest) = lexFrom (numberMode n) rest := by
  induction fuel generalizing n rest with
  | zero => omega
  | succ k ih =>
    simp only [decimalDigits]
    split
    · rename_i hn
      rw [Nat.mod_eq_of_lt hn]
      simp only [List.cons_append, List.nil_append]
      rw [lexFrom_cons (lexStep_digit_idle hn), prepend_nil]
    · rename_i hn
      rw [decimalDigits_append, List.append_assoc, ih _ (by omega), List.cons_append, List.nil_append,
        lexFrom_cons (lexStep_digit_number (by omega) (Nat.mod_lt n (by omega))), prepend_nil]
      congr 2; omega

/-- A natural number, before anything that separates. -/
theorem lexFrom_encodeNat (n : Nat) {rest : List Byte} (h : Separated rest) :
    lexFrom .idle (encodeNat n ++ rest) = prepend [.number n] (lexFrom .idle rest) := by
  rw [encodeNat, lexFrom_digits _ _ (Nat.lt_succ_self n), lexFrom_numberMode n h]

/-! ### Punctuation and names -/

/-- A punctuation mark. -/
theorem lexFrom_punctuation {c : Byte} {t : Token} (h : lexStep .idle c = .ok ([t], .idle)) (rest : List Byte) :
    lexFrom .idle (c :: rest) = prepend [t] (lexFrom .idle rest) := lexFrom_cons h rest

theorem lexFrom_inWord (rev : List Byte) (cs : List Byte) (hcs : ∀ c ∈ cs, (isLetter c || isDigit c) = true) {rest : List Byte}
    (h : Separated rest) :
    lexFrom (.inWord rev) (cs ++ rest) = prepend [.word (rev.reverse ++ cs)] (lexFrom .idle rest) := by
  induction cs generalizing rev with
  | nil =>
    cases rest with
    | nil => simp [lexFrom, lexEnd]
    | cons c cs =>
      simp only [List.nil_append, List.append_nil]
      apply lexFrom_close
      simp [lexStep, h.1, h.2]
  | cons c cs ih =>
    have hc := hcs c List.mem_cons_self
    rw [List.cons_append, lexFrom_cons (m' := .inWord (c :: rev)) (out := []) (by simp only [lexStep, hc]; rfl), prepend_nil,
      ih _ fun d hd => hcs d (List.mem_cons_of_mem _ hd)]
    simp

/-- A name: a letter, then letters and digits, before anything that separates. -/
theorem lexFrom_word {c : Byte} {cs : List Byte} (hc : lexStep .idle c = .ok ([], .inWord [c]))
    (hcs : ∀ c ∈ cs, (isLetter c || isDigit c) = true) {rest : List Byte} (h : Separated rest) :
    lexFrom .idle (c :: cs ++ rest) = prepend [.word (c :: cs)] (lexFrom .idle rest) := by
  rw [List.cons_append, lexFrom_cons hc, prepend_nil, lexFrom_inWord [c] cs hcs h]; rfl

/-- The names of the operations. -/
theorem lexFrom_name (k : OpName) {rest : List Byte} (h : Separated rest) :
    lexFrom .idle (k.bytes ++ rest) = prepend [.word k.bytes] (lexFrom .idle rest) := by
  cases k <;> exact lexFrom_word (by decide) (by decide) h

/-! ### Frames and fractions -/

theorem decimalValue_append (n : Nat) (xs ys : List Byte) :
    decimalValue n (xs ++ ys) = (decimalValue n xs).bind fun m => decimalValue m ys := by
  induction xs generalizing n with
  | nil => rfl
  | cons x xs ih => simp only [List.cons_append, decimalValue]; split <;> simp [ih]

theorem decimalValue_digits (fuel n : Nat) (h : n < fuel) : decimalValue 0 (decimalDigits fuel n []) = some n := by
  induction fuel generalizing n with
  | zero => omega
  | succ k ih =>
    obtain ⟨h1, h2⟩ := digit_isDigit (Nat.mod_lt n (show 0 < 10 by omega))
    simp only [decimalDigits]
    split
    · rename_i hn
      simp [decimalValue, h1, h2]; omega
    · rename_i hn
      rw [decimalDigits_append, decimalValue_append, ih _ (by omega)]
      simp only [Option.bind_some, decimalValue, h1, h2, if_true]
      congr 1; omega

theorem decimalDigits_isDigit (fuel n : Nat) : ∀ c ∈ decimalDigits fuel n [], isDigit c = true := by
  induction fuel generalizing n with
  | zero => simp [decimalDigits]
  | succ k ih =>
    have hd := (digit_isDigit (Nat.mod_lt n (show 0 < 10 by omega))).1
    intro c
    simp only [decimalDigits]
    split
    · simp only [List.mem_singleton]; rintro rfl; exact hd
    · rw [decimalDigits_append, List.mem_append, List.mem_singleton]
      rintro (h | rfl)
      · exact ih _ c h
      · exact hd

theorem encodeNat_ne_nil (n : Nat) : encodeNat n ≠ [] := by
  unfold encodeNat
  simp only [decimalDigits]
  split
  · simp
  · rw [decimalDigits_append]; simp

/-- A frame's name is one word, and it names the frame. -/
theorem lexFrom_encodeFrame (f : Frame) {rest : List Byte} (h : Separated rest) :
    lexFrom .idle (encodeFrame f ++ rest) = prepend [.word (encodeFrame f)] (lexFrom .idle rest) :=
  lexFrom_word (c := 70) (cs := encodeNat f) (by decide)
    (fun c hc => by simp [decimalDigits_isDigit _ _ c hc]) h

theorem frameName_encodeFrame (f : Frame) : frameName (encodeFrame f) = some f := by
  have hn := encodeNat_ne_nil f
  have hv := decimalValue_digits (f + 1) f (Nat.lt_succ_self f)
  rw [← encodeNat] at hv
  show frameName (70 :: encodeNat f) = some f
  cases h : encodeNat f with
  | nil => exact absurd h hn
  | cons d ds => rw [h] at hv; simp [frameName, hv]

/-- The tokens of a rational. -/
def ratTokens (q : Rat) : List Token :=
  (if q.num < 0 then [.minus] else []) ++ [.number q.num.natAbs] ++ (if q.den = 1 then [] else [.slash, .number q.den])

theorem lexFrom_encodeRat (q : Rat) {rest : List Byte} (h : Separated rest) :
    lexFrom .idle (encodeRat q ++ rest) = prepend (ratTokens q) (lexFrom .idle rest) := by
  have tail : lexFrom .idle (encodeNat q.num.natAbs ++ ((if q.den = 1 then [] else ascii ['/'] ++ encodeNat q.den) ++ rest)) =
      prepend ([.number q.num.natAbs] ++ (if q.den = 1 then [] else [.slash, .number q.den])) (lexFrom .idle rest) := by
    split
    · rw [List.nil_append, lexFrom_encodeNat _ h, List.append_nil]
    · rw [List.append_assoc, lexFrom_encodeNat _ (show Separated (ascii ['/'] ++ _) from ⟨by decide, by decide⟩)]
      show prepend _ (lexFrom .idle (47 :: (encodeNat q.den ++ rest))) = _
      rw [lexFrom_punctuation (c := 47) (t := .slash) rfl, lexFrom_encodeNat _ h, prepend_prepend, prepend_prepend]
      rfl
  unfold encodeRat ratTokens
  rw [List.append_assoc, List.append_assoc, List.append_assoc]
  split
  · show lexFrom .idle (45 :: _) = _
    rw [lexFrom_punctuation (c := 45) (t := .minus) rfl]
    show prepend _ (lexFrom .idle (encodeNat q.num.natAbs ++
      ((if q.den = 1 then [] else ascii ['/'] ++ encodeNat q.den) ++ rest))) = _
    rw [tail, prepend_prepend]
  · rw [List.nil_append, tail, List.nil_append]

theorem operand_ratTokens (q : Rat) : operand (ratTokens q) = some (.quantity q) := by
  have hd : q.den ≠ 0 := q.den_nz
  have hq : mkRat q.num q.den = q := Rat.mkRat_self q
  unfold ratTokens
  by_cases hn : q.num < 0
  · have e : (-(q.num.natAbs : Int)) = q.num := by omega
    by_cases h1 : q.den = 1
    · simp only [hn, h1, if_true, List.cons_append, List.nil_append, operand]
      congr 2
      have : (q.num : Rat) = q := (Rat.den_eq_one_iff q).1 h1
      rw [← this, ← e]; push_cast; simp
    · simp only [hn, h1, hd, if_true, if_false, List.cons_append, List.nil_append, operand, e, hq]
  · have e : (q.num.natAbs : Int) = q.num := by omega
    by_cases h1 : q.den = 1
    · simp only [hn, h1, if_true, if_false, List.cons_append, List.nil_append, operand]
      congr 2
      have : (q.num : Rat) = q := (Rat.den_eq_one_iff q).1 h1
      conv_rhs => rw [← this, ← e]
      push_cast; simp
    · simp only [hn, h1, hd, if_false, List.cons_append, List.nil_append, operand, e, hq]

end Sys2Proof
end

