-- ==== Sys2Proof/Laws/Memory.lean ====
section
/-!
SUPPORT. The chip's registers: a register that takes a byte holds it and every other register holds what it held; writing keeps
the canonical form and the numbers of the registers.
-/

namespace Sys2Proof.Machine.Memory

theorem read_erase_same (m : Memory) (r : Nat) : read (erase m r) r = Config.chipPowerOn r := by
  induction m with
  | nil => rfl
  | cons c m ih =>
    obtain ⟨k, v⟩ := c
    by_cases h : k = r <;> simp [erase, read, h, ih]

theorem read_erase_other (m : Memory) {r q : Nat} (h : q ≠ r) : read (erase m r) q = read m q := by
  induction m with
  | nil => rfl
  | cons c m ih =>
    obtain ⟨k, v⟩ := c
    by_cases hk : k = r
    · have : k ≠ q := fun hq => h (hq.symm.trans hk)
      simp [erase, read, hk, ih, show r ≠ q from hk ▸ this]
    · simp [erase, read, hk, ih]

theorem read_insert_same (m : Memory) (r : Nat) (b : Byte) : read (insert m r b) r = b := by
  induction m with
  | nil => simp [insert, read]
  | cons c m ih =>
    obtain ⟨k, v⟩ := c
    simp only [insert]
    split
    · simp [read]
    · split
      · simp [read]
      · rename_i h; simp [read, ih, Ne.symm h]

theorem read_insert_other (m : Memory) {r q : Nat} (b : Byte) (h : q ≠ r) : read (insert m r b) q = read m q := by
  induction m with
  | nil => simp [insert, read, Ne.symm h]
  | cons c m ih =>
    obtain ⟨k, v⟩ := c
    simp only [insert]
    split
    · simp [read, Ne.symm h]
    · split
      · rename_i hk; subst hk; simp [read, Ne.symm h]
      · simp [read, ih]

@[simp] theorem read_write_same (m : Memory) (r : Nat) (b : Byte) : read (write m r b) r = b := by
  unfold write
  split
  · rename_i h; rw [read_erase_same, h]
  · exact read_insert_same m r b

theorem read_write_other (m : Memory) {r q : Nat} (b : Byte) (h : q ≠ r) : read (write m r b) q = read m q := by
  unfold write
  split
  · exact read_erase_other m h
  · exact read_insert_other m b h

/-! ### The canonical form -/

/-- Every register number of the list is above `k`. -/
theorem rising_cons {k : Nat} {v : Byte} {m : Memory} :
    rising ((k, v) :: m) = true ↔ (∀ c ∈ m, k < c.1) ∧ rising m = true := by
  induction m generalizing k v with
  | nil => simp [rising]
  | cons c m ih =>
    obtain ⟨k', v'⟩ := c
    simp only [rising, Bool.and_eq_true, decide_eq_true_eq, List.mem_cons, forall_eq_or_imp]
    refine ⟨fun ⟨hk, hr⟩ => ⟨⟨hk, fun c hc => hk.trans ((ih.1 hr).1 c hc)⟩, hr⟩, fun ⟨⟨hk, _⟩, hr⟩ => ⟨hk, hr⟩⟩

theorem mem_erase {m : Memory} {r : Nat} {c : Host.Cell} (h : c ∈ erase m r) : c ∈ m := by
  induction m with
  | nil => exact h
  | cons d m ih =>
    obtain ⟨k, v⟩ := d
    simp only [erase] at h
    split at h
    · exact List.mem_cons_of_mem _ (ih h)
    · rcases List.mem_cons.1 h with h | h
      · exact h ▸ List.mem_cons_self
      · exact List.mem_cons_of_mem _ (ih h)

theorem mem_insert {m : Memory} {r : Nat} {b : Byte} {c : Host.Cell} (h : c ∈ insert m r b) : c = (r, b) ∨ c ∈ m := by
  induction m with
  | nil => exact .inl (List.mem_singleton.1 h)
  | cons d m ih =>
    obtain ⟨k, v⟩ := d
    simp only [insert] at h
    split at h
    · rcases List.mem_cons.1 h with h | h
      · exact .inl h
      · exact .inr h
    · split at h
      · rcases List.mem_cons.1 h with h | h
        · exact .inl h
        · exact .inr (List.mem_cons_of_mem _ h)
      · rcases List.mem_cons.1 h with h | h
        · exact .inr (h ▸ List.mem_cons_self)
        · exact (ih h).imp_right (List.mem_cons_of_mem _)

theorem rising_erase {m : Memory} (r : Nat) (h : rising m = true) : rising (erase m r) = true := by
  induction m with
  | nil => rfl
  | cons d m ih =>
    obtain ⟨k, v⟩ := d
    obtain ⟨hk, hm⟩ := rising_cons.1 h
    simp only [erase]
    split
    · exact ih hm
    · exact rising_cons.2 ⟨fun c hc => hk c (mem_erase hc), ih hm⟩

theorem rising_insert {m : Memory} (r : Nat) (b : Byte) (h : rising m = true) : rising (insert m r b) = true := by
  induction m with
  | nil => rfl
  | cons d m ih =>
    obtain ⟨k, v⟩ := d
    obtain ⟨hk, hm⟩ := rising_cons.1 h
    simp only [insert]
    split
    · rename_i hr
      refine rising_cons.2 ⟨fun c hc => ?_, h⟩
      rcases List.mem_cons.1 hc with rfl | hc
      · exact hr
      · exact hr.trans (hk c hc)
    · split
      · rename_i hr; subst hr; exact rising_cons.2 ⟨hk, hm⟩
      · refine rising_cons.2 ⟨fun c hc => ?_, ih hm⟩
        rcases mem_insert hc with rfl | hc
        · show k < r; omega
        · exact hk c hc

/-- Every memory operation is a `write`, and a write keeps the canonical form. -/
theorem wf_write {m : Memory} (r : Nat) (b : Byte) (h : wf m = true) : wf (write m r b) = true := by
  simp only [wf, Bool.and_eq_true, List.all_eq_true, bne_iff_ne] at h ⊢
  unfold write
  split
  · exact ⟨rising_erase r h.1, fun c hc => h.2 c (mem_erase hc)⟩
  · rename_i hb
    refine ⟨rising_insert r b h.1, fun c hc => ?_⟩
    rcases mem_insert hc with rfl | hc
    · exact hb
    · exact h.2 c hc

theorem mem_write {m : Memory} {r : Nat} {b : Byte} {c : Host.Cell} (h : c ∈ write m r b) : c = (r, b) ∨ c ∈ m := by
  unfold write at h
  split at h
  · exact .inr (mem_erase h)
  · exact mem_insert h

theorem wf_empty : wf [] = true := rfl

end Sys2Proof.Machine.Memory
end

