-- ==== Sys2Proof/Laws/State.lean ====
section
/-!
SUPPORT. What each update of the state leaves in each field: one lemma per field per update, so that no later proof unfolds a
record update.
-/

namespace Sys2Proof.Machine

/-! ### `State.raiseCycleDue` -/

@[simp] theorem State.raiseCycleDue_params (s : State) : s.raiseCycleDue.params = s.params := rfl
@[simp] theorem State.raiseCycleDue_cycleDue (s : State) : s.raiseCycleDue.cycleDue = true := rfl
@[simp] theorem State.raiseCycleDue_phase (s : State) : s.raiseCycleDue.phase = s.phase := rfl
@[simp] theorem State.raiseCycleDue_cache (s : State) : s.raiseCycleDue.cache = s.cache := rfl
@[simp] theorem State.raiseCycleDue_ctrl (s : State) : s.raiseCycleDue.ctrl = s.ctrl := rfl
@[simp] theorem State.raiseCycleDue_bus (s : State) : s.raiseCycleDue.bus = s.bus := rfl
@[simp] theorem State.raiseCycleDue_faults (s : State) : s.raiseCycleDue.faults = s.faults := rfl
@[simp] theorem State.raiseCycleDue_refused (s : State) : s.raiseCycleDue.refused = s.refused := rfl
@[simp] theorem State.raiseCycleDue_runState (s : State) : s.raiseCycleDue.runState = s.runState := rfl
@[simp] theorem State.raiseCycleDue_errorCode (s : State) : s.raiseCycleDue.errorCode = s.errorCode := rfl
@[simp] theorem State.raiseCycleDue_desired (s : State) : s.raiseCycleDue.desired = s.desired := rfl
@[simp] theorem State.raiseCycleDue_nodeId (s : State) : s.raiseCycleDue.nodeId = s.nodeId := rfl
@[simp] theorem State.raiseCycleDue_chip (s : State) : s.raiseCycleDue.chip = s.chip := rfl
@[simp] theorem State.raiseCycleDue_timerCompare (s : State) : s.raiseCycleDue.timerCompare = s.timerCompare := rfl
@[simp] theorem State.raiseCycleDue_returned (s : State) : s.raiseCycleDue.returned = s.returned := rfl
@[simp] theorem State.raiseCycleDue_schedule (s : State) : s.raiseCycleDue.schedule = s.schedule := rfl
@[simp] theorem State.raiseCycleDue_oracle (s : State) : s.raiseCycleDue.oracle = s.oracle := rfl

/-! ### `State.clearCycleDue` -/

@[simp] theorem State.clearCycleDue_params (s : State) : s.clearCycleDue.params = s.params := rfl
@[simp] theorem State.clearCycleDue_cycleDue (s : State) : s.clearCycleDue.cycleDue = false := rfl
@[simp] theorem State.clearCycleDue_phase (s : State) : s.clearCycleDue.phase = s.phase := rfl
@[simp] theorem State.clearCycleDue_cache (s : State) : s.clearCycleDue.cache = s.cache := rfl
@[simp] theorem State.clearCycleDue_ctrl (s : State) : s.clearCycleDue.ctrl = s.ctrl := rfl
@[simp] theorem State.clearCycleDue_bus (s : State) : s.clearCycleDue.bus = s.bus := rfl
@[simp] theorem State.clearCycleDue_faults (s : State) : s.clearCycleDue.faults = s.faults := rfl
@[simp] theorem State.clearCycleDue_refused (s : State) : s.clearCycleDue.refused = s.refused := rfl
@[simp] theorem State.clearCycleDue_runState (s : State) : s.clearCycleDue.runState = s.runState := rfl
@[simp] theorem State.clearCycleDue_errorCode (s : State) : s.clearCycleDue.errorCode = s.errorCode := rfl
@[simp] theorem State.clearCycleDue_desired (s : State) : s.clearCycleDue.desired = s.desired := rfl
@[simp] theorem State.clearCycleDue_nodeId (s : State) : s.clearCycleDue.nodeId = s.nodeId := rfl
@[simp] theorem State.clearCycleDue_chip (s : State) : s.clearCycleDue.chip = s.chip := rfl
@[simp] theorem State.clearCycleDue_timerCompare (s : State) : s.clearCycleDue.timerCompare = s.timerCompare := rfl
@[simp] theorem State.clearCycleDue_returned (s : State) : s.clearCycleDue.returned = s.returned := rfl
@[simp] theorem State.clearCycleDue_schedule (s : State) : s.clearCycleDue.schedule = s.schedule := rfl
@[simp] theorem State.clearCycleDue_oracle (s : State) : s.clearCycleDue.oracle = s.oracle := rfl

/-! ### `State.appendEvent` -/

@[simp] theorem State.appendEvent_params (s : State) (e : BusEvent) : (s.appendEvent e).params = s.params := rfl
@[simp] theorem State.appendEvent_cycleDue (s : State) (e : BusEvent) : (s.appendEvent e).cycleDue = s.cycleDue := rfl
@[simp] theorem State.appendEvent_phase (s : State) (e : BusEvent) : (s.appendEvent e).phase = s.phase := rfl
@[simp] theorem State.appendEvent_cache (s : State) (e : BusEvent) : (s.appendEvent e).cache = s.cache := rfl
@[simp] theorem State.appendEvent_ctrl (s : State) (e : BusEvent) : (s.appendEvent e).ctrl = s.ctrl := rfl
@[simp] theorem State.appendEvent_bus (s : State) (e : BusEvent) : (s.appendEvent e).bus = s.bus ++ [e] := rfl
@[simp] theorem State.appendEvent_faults (s : State) (e : BusEvent) : (s.appendEvent e).faults = s.faults := rfl
@[simp] theorem State.appendEvent_refused (s : State) (e : BusEvent) : (s.appendEvent e).refused = s.refused := rfl
@[simp] theorem State.appendEvent_runState (s : State) (e : BusEvent) : (s.appendEvent e).runState = s.runState := rfl
@[simp] theorem State.appendEvent_errorCode (s : State) (e : BusEvent) : (s.appendEvent e).errorCode = s.errorCode := rfl
@[simp] theorem State.appendEvent_desired (s : State) (e : BusEvent) : (s.appendEvent e).desired = s.desired := rfl
@[simp] theorem State.appendEvent_nodeId (s : State) (e : BusEvent) : (s.appendEvent e).nodeId = s.nodeId := rfl
@[simp] theorem State.appendEvent_chip (s : State) (e : BusEvent) : (s.appendEvent e).chip = s.chip := rfl
@[simp] theorem State.appendEvent_timerCompare (s : State) (e : BusEvent) : (s.appendEvent e).timerCompare = s.timerCompare := rfl
@[simp] theorem State.appendEvent_returned (s : State) (e : BusEvent) : (s.appendEvent e).returned = s.returned := rfl
@[simp] theorem State.appendEvent_schedule (s : State) (e : BusEvent) : (s.appendEvent e).schedule = s.schedule := rfl
@[simp] theorem State.appendEvent_oracle (s : State) (e : BusEvent) : (s.appendEvent e).oracle = s.oracle := rfl

/-! ### `State.setPhase` -/

@[simp] theorem State.setPhase_params (s : State) (p : Phase) : (s.setPhase p).params = s.params := rfl
@[simp] theorem State.setPhase_cycleDue (s : State) (p : Phase) : (s.setPhase p).cycleDue = s.cycleDue := rfl
@[simp] theorem State.setPhase_phase (s : State) (p : Phase) : (s.setPhase p).phase = p := rfl
@[simp] theorem State.setPhase_cache (s : State) (p : Phase) : (s.setPhase p).cache = s.cache := rfl
@[simp] theorem State.setPhase_ctrl (s : State) (p : Phase) : (s.setPhase p).ctrl = s.ctrl := rfl
@[simp] theorem State.setPhase_bus (s : State) (p : Phase) : (s.setPhase p).bus = s.bus := rfl
@[simp] theorem State.setPhase_faults (s : State) (p : Phase) : (s.setPhase p).faults = s.faults := rfl
@[simp] theorem State.setPhase_refused (s : State) (p : Phase) : (s.setPhase p).refused = s.refused := rfl
@[simp] theorem State.setPhase_runState (s : State) (p : Phase) : (s.setPhase p).runState = s.runState := rfl
@[simp] theorem State.setPhase_errorCode (s : State) (p : Phase) : (s.setPhase p).errorCode = s.errorCode := rfl
@[simp] theorem State.setPhase_desired (s : State) (p : Phase) : (s.setPhase p).desired = s.desired := rfl
@[simp] theorem State.setPhase_nodeId (s : State) (p : Phase) : (s.setPhase p).nodeId = s.nodeId := rfl
@[simp] theorem State.setPhase_chip (s : State) (p : Phase) : (s.setPhase p).chip = s.chip := rfl
@[simp] theorem State.setPhase_timerCompare (s : State) (p : Phase) : (s.setPhase p).timerCompare = s.timerCompare := rfl
@[simp] theorem State.setPhase_returned (s : State) (p : Phase) : (s.setPhase p).returned = s.returned := rfl
@[simp] theorem State.setPhase_schedule (s : State) (p : Phase) : (s.setPhase p).schedule = s.schedule := rfl
@[simp] theorem State.setPhase_oracle (s : State) (p : Phase) : (s.setPhase p).oracle = s.oracle := rfl

/-! ### `State.setCache` -/

@[simp] theorem State.setCache_params (s : State) (i : Fin 32) (t : Pair) : (s.setCache i t).params = s.params := rfl
@[simp] theorem State.setCache_cycleDue (s : State) (i : Fin 32) (t : Pair) : (s.setCache i t).cycleDue = s.cycleDue := rfl
@[simp] theorem State.setCache_phase (s : State) (i : Fin 32) (t : Pair) : (s.setCache i t).phase = s.phase := rfl
@[simp] theorem State.setCache_cache (s : State) (i : Fin 32) (t : Pair) : (s.setCache i t).cache = s.cache.set i.val t i.isLt := rfl
@[simp] theorem State.setCache_ctrl (s : State) (i : Fin 32) (t : Pair) : (s.setCache i t).ctrl = s.ctrl := rfl
@[simp] theorem State.setCache_bus (s : State) (i : Fin 32) (t : Pair) : (s.setCache i t).bus = s.bus := rfl
@[simp] theorem State.setCache_faults (s : State) (i : Fin 32) (t : Pair) : (s.setCache i t).faults = s.faults := rfl
@[simp] theorem State.setCache_refused (s : State) (i : Fin 32) (t : Pair) : (s.setCache i t).refused = s.refused := rfl
@[simp] theorem State.setCache_runState (s : State) (i : Fin 32) (t : Pair) : (s.setCache i t).runState = s.runState := rfl
@[simp] theorem State.setCache_errorCode (s : State) (i : Fin 32) (t : Pair) : (s.setCache i t).errorCode = s.errorCode := rfl
@[simp] theorem State.setCache_desired (s : State) (i : Fin 32) (t : Pair) : (s.setCache i t).desired = s.desired := rfl
@[simp] theorem State.setCache_nodeId (s : State) (i : Fin 32) (t : Pair) : (s.setCache i t).nodeId = s.nodeId := rfl
@[simp] theorem State.setCache_chip (s : State) (i : Fin 32) (t : Pair) : (s.setCache i t).chip = s.chip := rfl
@[simp] theorem State.setCache_timerCompare (s : State) (i : Fin 32) (t : Pair) : (s.setCache i t).timerCompare = s.timerCompare := rfl
@[simp] theorem State.setCache_returned (s : State) (i : Fin 32) (t : Pair) : (s.setCache i t).returned = s.returned := rfl
@[simp] theorem State.setCache_schedule (s : State) (i : Fin 32) (t : Pair) : (s.setCache i t).schedule = s.schedule := rfl
@[simp] theorem State.setCache_oracle (s : State) (i : Fin 32) (t : Pair) : (s.setCache i t).oracle = s.oracle := rfl

/-! ### `State.setController` -/

@[simp] theorem State.setController_params (s : State) (f : Nat) (p : Byte) : (s.setController f p).params = s.params := rfl
@[simp] theorem State.setController_cycleDue (s : State) (f : Nat) (p : Byte) : (s.setController f p).cycleDue = s.cycleDue := rfl
@[simp] theorem State.setController_phase (s : State) (f : Nat) (p : Byte) : (s.setController f p).phase = s.phase := rfl
@[simp] theorem State.setController_cache (s : State) (f : Nat) (p : Byte) : (s.setController f p).cache = s.cache := rfl
@[simp] theorem State.setController_ctrl (s : State) (f : Nat) (p : Byte) : (s.setController f p).ctrl = ⟨s.ctrl.busAddress, some f, some p⟩ := rfl
@[simp] theorem State.setController_bus (s : State) (f : Nat) (p : Byte) : (s.setController f p).bus = s.bus := rfl
@[simp] theorem State.setController_faults (s : State) (f : Nat) (p : Byte) : (s.setController f p).faults = s.faults := rfl
@[simp] theorem State.setController_refused (s : State) (f : Nat) (p : Byte) : (s.setController f p).refused = s.refused := rfl
@[simp] theorem State.setController_runState (s : State) (f : Nat) (p : Byte) : (s.setController f p).runState = s.runState := rfl
@[simp] theorem State.setController_errorCode (s : State) (f : Nat) (p : Byte) : (s.setController f p).errorCode = s.errorCode := rfl
@[simp] theorem State.setController_desired (s : State) (f : Nat) (p : Byte) : (s.setController f p).desired = s.desired := rfl
@[simp] theorem State.setController_nodeId (s : State) (f : Nat) (p : Byte) : (s.setController f p).nodeId = s.nodeId := rfl
@[simp] theorem State.setController_chip (s : State) (f : Nat) (p : Byte) : (s.setController f p).chip = s.chip := rfl
@[simp] theorem State.setController_timerCompare (s : State) (f : Nat) (p : Byte) : (s.setController f p).timerCompare = s.timerCompare := rfl
@[simp] theorem State.setController_returned (s : State) (f : Nat) (p : Byte) : (s.setController f p).returned = s.returned := rfl
@[simp] theorem State.setController_schedule (s : State) (f : Nat) (p : Byte) : (s.setController f p).schedule = s.schedule := rfl
@[simp] theorem State.setController_oracle (s : State) (f : Nat) (p : Byte) : (s.setController f p).oracle = s.oracle := rfl

/-! ### `State.setReturned` -/

@[simp] theorem State.setReturned_params (s : State) (v : Byte) : (s.setReturned v).params = s.params := rfl
@[simp] theorem State.setReturned_cycleDue (s : State) (v : Byte) : (s.setReturned v).cycleDue = s.cycleDue := rfl
@[simp] theorem State.setReturned_phase (s : State) (v : Byte) : (s.setReturned v).phase = s.phase := rfl
@[simp] theorem State.setReturned_cache (s : State) (v : Byte) : (s.setReturned v).cache = s.cache := rfl
@[simp] theorem State.setReturned_ctrl (s : State) (v : Byte) : (s.setReturned v).ctrl = s.ctrl := rfl
@[simp] theorem State.setReturned_bus (s : State) (v : Byte) : (s.setReturned v).bus = s.bus := rfl
@[simp] theorem State.setReturned_faults (s : State) (v : Byte) : (s.setReturned v).faults = s.faults := rfl
@[simp] theorem State.setReturned_refused (s : State) (v : Byte) : (s.setReturned v).refused = s.refused := rfl
@[simp] theorem State.setReturned_runState (s : State) (v : Byte) : (s.setReturned v).runState = s.runState := rfl
@[simp] theorem State.setReturned_errorCode (s : State) (v : Byte) : (s.setReturned v).errorCode = s.errorCode := rfl
@[simp] theorem State.setReturned_desired (s : State) (v : Byte) : (s.setReturned v).desired = s.desired := rfl
@[simp] theorem State.setReturned_nodeId (s : State) (v : Byte) : (s.setReturned v).nodeId = s.nodeId := rfl
@[simp] theorem State.setReturned_chip (s : State) (v : Byte) : (s.setReturned v).chip = s.chip := rfl
@[simp] theorem State.setReturned_timerCompare (s : State) (v : Byte) : (s.setReturned v).timerCompare = s.timerCompare := rfl
@[simp] theorem State.setReturned_returned (s : State) (v : Byte) : (s.setReturned v).returned = some v := rfl
@[simp] theorem State.setReturned_schedule (s : State) (v : Byte) : (s.setReturned v).schedule = s.schedule := rfl
@[simp] theorem State.setReturned_oracle (s : State) (v : Byte) : (s.setReturned v).oracle = s.oracle := rfl

/-! ### `State.setSchedule` -/

@[simp] theorem State.setSchedule_params (s : State) (ms : List Move) : (s.setSchedule ms).params = s.params := rfl
@[simp] theorem State.setSchedule_cycleDue (s : State) (ms : List Move) : (s.setSchedule ms).cycleDue = s.cycleDue := rfl
@[simp] theorem State.setSchedule_phase (s : State) (ms : List Move) : (s.setSchedule ms).phase = s.phase := rfl
@[simp] theorem State.setSchedule_cache (s : State) (ms : List Move) : (s.setSchedule ms).cache = s.cache := rfl
@[simp] theorem State.setSchedule_ctrl (s : State) (ms : List Move) : (s.setSchedule ms).ctrl = s.ctrl := rfl
@[simp] theorem State.setSchedule_bus (s : State) (ms : List Move) : (s.setSchedule ms).bus = s.bus := rfl
@[simp] theorem State.setSchedule_faults (s : State) (ms : List Move) : (s.setSchedule ms).faults = s.faults := rfl
@[simp] theorem State.setSchedule_refused (s : State) (ms : List Move) : (s.setSchedule ms).refused = s.refused := rfl
@[simp] theorem State.setSchedule_runState (s : State) (ms : List Move) : (s.setSchedule ms).runState = s.runState := rfl
@[simp] theorem State.setSchedule_errorCode (s : State) (ms : List Move) : (s.setSchedule ms).errorCode = s.errorCode := rfl
@[simp] theorem State.setSchedule_desired (s : State) (ms : List Move) : (s.setSchedule ms).desired = s.desired := rfl
@[simp] theorem State.setSchedule_nodeId (s : State) (ms : List Move) : (s.setSchedule ms).nodeId = s.nodeId := rfl
@[simp] theorem State.setSchedule_chip (s : State) (ms : List Move) : (s.setSchedule ms).chip = s.chip := rfl
@[simp] theorem State.setSchedule_timerCompare (s : State) (ms : List Move) : (s.setSchedule ms).timerCompare = s.timerCompare := rfl
@[simp] theorem State.setSchedule_returned (s : State) (ms : List Move) : (s.setSchedule ms).returned = s.returned := rfl
@[simp] theorem State.setSchedule_schedule (s : State) (ms : List Move) : (s.setSchedule ms).schedule = ms := rfl
@[simp] theorem State.setSchedule_oracle (s : State) (ms : List Move) : (s.setSchedule ms).oracle = s.oracle := rfl

/-! ### `State.setNode` -/

@[simp] theorem State.setNode_params (s : State) (n : Nat) (r : RunState) : (s.setNode n r).params = s.params := rfl
@[simp] theorem State.setNode_cycleDue (s : State) (n : Nat) (r : RunState) : (s.setNode n r).cycleDue = s.cycleDue := rfl
@[simp] theorem State.setNode_phase (s : State) (n : Nat) (r : RunState) : (s.setNode n r).phase = s.phase := rfl
@[simp] theorem State.setNode_cache (s : State) (n : Nat) (r : RunState) : (s.setNode n r).cache = s.cache := rfl
@[simp] theorem State.setNode_ctrl (s : State) (n : Nat) (r : RunState) : (s.setNode n r).ctrl = s.ctrl := rfl
@[simp] theorem State.setNode_bus (s : State) (n : Nat) (r : RunState) : (s.setNode n r).bus = s.bus := rfl
@[simp] theorem State.setNode_faults (s : State) (n : Nat) (r : RunState) : (s.setNode n r).faults = s.faults := rfl
@[simp] theorem State.setNode_refused (s : State) (n : Nat) (r : RunState) : (s.setNode n r).refused = s.refused := rfl
@[simp] theorem State.setNode_runState (s : State) (n : Nat) (r : RunState) : (s.setNode n r).runState = r := rfl
@[simp] theorem State.setNode_errorCode (s : State) (n : Nat) (r : RunState) : (s.setNode n r).errorCode = s.errorCode := rfl
@[simp] theorem State.setNode_desired (s : State) (n : Nat) (r : RunState) : (s.setNode n r).desired = s.desired := rfl
@[simp] theorem State.setNode_nodeId (s : State) (n : Nat) (r : RunState) : (s.setNode n r).nodeId = n := rfl
@[simp] theorem State.setNode_chip (s : State) (n : Nat) (r : RunState) : (s.setNode n r).chip = s.chip := rfl
@[simp] theorem State.setNode_timerCompare (s : State) (n : Nat) (r : RunState) : (s.setNode n r).timerCompare = s.timerCompare := rfl
@[simp] theorem State.setNode_returned (s : State) (n : Nat) (r : RunState) : (s.setNode n r).returned = s.returned := rfl
@[simp] theorem State.setNode_schedule (s : State) (n : Nat) (r : RunState) : (s.setNode n r).schedule = s.schedule := rfl
@[simp] theorem State.setNode_oracle (s : State) (n : Nat) (r : RunState) : (s.setNode n r).oracle = s.oracle := rfl

/-! ### `State.setTimerCompare` -/

@[simp] theorem State.setTimerCompare_params (s : State) (v : Nat) : (s.setTimerCompare v).params = s.params := rfl
@[simp] theorem State.setTimerCompare_cycleDue (s : State) (v : Nat) : (s.setTimerCompare v).cycleDue = s.cycleDue := rfl
@[simp] theorem State.setTimerCompare_phase (s : State) (v : Nat) : (s.setTimerCompare v).phase = s.phase := rfl
@[simp] theorem State.setTimerCompare_cache (s : State) (v : Nat) : (s.setTimerCompare v).cache = s.cache := rfl
@[simp] theorem State.setTimerCompare_ctrl (s : State) (v : Nat) : (s.setTimerCompare v).ctrl = s.ctrl := rfl
@[simp] theorem State.setTimerCompare_bus (s : State) (v : Nat) : (s.setTimerCompare v).bus = s.bus := rfl
@[simp] theorem State.setTimerCompare_faults (s : State) (v : Nat) : (s.setTimerCompare v).faults = s.faults := rfl
@[simp] theorem State.setTimerCompare_refused (s : State) (v : Nat) : (s.setTimerCompare v).refused = s.refused := rfl
@[simp] theorem State.setTimerCompare_runState (s : State) (v : Nat) : (s.setTimerCompare v).runState = s.runState := rfl
@[simp] theorem State.setTimerCompare_errorCode (s : State) (v : Nat) : (s.setTimerCompare v).errorCode = s.errorCode := rfl
@[simp] theorem State.setTimerCompare_desired (s : State) (v : Nat) : (s.setTimerCompare v).desired = s.desired := rfl
@[simp] theorem State.setTimerCompare_nodeId (s : State) (v : Nat) : (s.setTimerCompare v).nodeId = s.nodeId := rfl
@[simp] theorem State.setTimerCompare_chip (s : State) (v : Nat) : (s.setTimerCompare v).chip = s.chip := rfl
@[simp] theorem State.setTimerCompare_timerCompare (s : State) (v : Nat) : (s.setTimerCompare v).timerCompare = v := rfl
@[simp] theorem State.setTimerCompare_returned (s : State) (v : Nat) : (s.setTimerCompare v).returned = s.returned := rfl
@[simp] theorem State.setTimerCompare_schedule (s : State) (v : Nat) : (s.setTimerCompare v).schedule = s.schedule := rfl
@[simp] theorem State.setTimerCompare_oracle (s : State) (v : Nat) : (s.setTimerCompare v).oracle = s.oracle := rfl

/-! ### `State.raise` -/

@[simp] theorem State.raise_params (s : State) (r : Reason) (c : Cause) : (s.raise r c).params = s.params := rfl
@[simp] theorem State.raise_cycleDue (s : State) (r : Reason) (c : Cause) : (s.raise r c).cycleDue = s.cycleDue := rfl
@[simp] theorem State.raise_phase (s : State) (r : Reason) (c : Cause) : (s.raise r c).phase = s.phase := rfl
@[simp] theorem State.raise_cache (s : State) (r : Reason) (c : Cause) : (s.raise r c).cache = s.cache := rfl
@[simp] theorem State.raise_ctrl (s : State) (r : Reason) (c : Cause) : (s.raise r c).ctrl = s.ctrl := rfl
@[simp] theorem State.raise_bus (s : State) (r : Reason) (c : Cause) : (s.raise r c).bus = s.bus := rfl
@[simp] theorem State.raise_faults (s : State) (r : Reason) (c : Cause) : (s.raise r c).faults = s.faults ++ [⟨r, c⟩] := rfl
@[simp] theorem State.raise_refused (s : State) (r : Reason) (c : Cause) : (s.raise r c).refused = (s.refused || r.isRefusal) := rfl
@[simp] theorem State.raise_runState (s : State) (r : Reason) (c : Cause) : (s.raise r c).runState = s.runState := rfl
@[simp] theorem State.raise_errorCode (s : State) (r : Reason) (c : Cause) : (s.raise r c).errorCode = s.errorCode := rfl
@[simp] theorem State.raise_desired (s : State) (r : Reason) (c : Cause) : (s.raise r c).desired = s.desired := rfl
@[simp] theorem State.raise_nodeId (s : State) (r : Reason) (c : Cause) : (s.raise r c).nodeId = s.nodeId := rfl
@[simp] theorem State.raise_chip (s : State) (r : Reason) (c : Cause) : (s.raise r c).chip = s.chip := rfl
@[simp] theorem State.raise_timerCompare (s : State) (r : Reason) (c : Cause) : (s.raise r c).timerCompare = s.timerCompare := rfl
@[simp] theorem State.raise_returned (s : State) (r : Reason) (c : Cause) : (s.raise r c).returned = s.returned := rfl
@[simp] theorem State.raise_schedule (s : State) (r : Reason) (c : Cause) : (s.raise r c).schedule = s.schedule := rfl
@[simp] theorem State.raise_oracle (s : State) (r : Reason) (c : Cause) : (s.raise r c).oracle = s.oracle := rfl

/-! ### `State.drawByte`: only the oracle changes -/

@[simp] theorem State.drawByte_params (s : State) : s.drawByte.2.params = s.params := by unfold State.drawByte; split <;> rfl
@[simp] theorem State.drawByte_cycleDue (s : State) : s.drawByte.2.cycleDue = s.cycleDue := by unfold State.drawByte; split <;> rfl
@[simp] theorem State.drawByte_phase (s : State) : s.drawByte.2.phase = s.phase := by unfold State.drawByte; split <;> rfl
@[simp] theorem State.drawByte_cache (s : State) : s.drawByte.2.cache = s.cache := by unfold State.drawByte; split <;> rfl
@[simp] theorem State.drawByte_ctrl (s : State) : s.drawByte.2.ctrl = s.ctrl := by unfold State.drawByte; split <;> rfl
@[simp] theorem State.drawByte_bus (s : State) : s.drawByte.2.bus = s.bus := by unfold State.drawByte; split <;> rfl
@[simp] theorem State.drawByte_faults (s : State) : s.drawByte.2.faults = s.faults := by unfold State.drawByte; split <;> rfl
@[simp] theorem State.drawByte_refused (s : State) : s.drawByte.2.refused = s.refused := by unfold State.drawByte; split <;> rfl
@[simp] theorem State.drawByte_runState (s : State) : s.drawByte.2.runState = s.runState := by unfold State.drawByte; split <;> rfl
@[simp] theorem State.drawByte_errorCode (s : State) : s.drawByte.2.errorCode = s.errorCode := by unfold State.drawByte; split <;> rfl
@[simp] theorem State.drawByte_desired (s : State) : s.drawByte.2.desired = s.desired := by unfold State.drawByte; split <;> rfl
@[simp] theorem State.drawByte_nodeId (s : State) : s.drawByte.2.nodeId = s.nodeId := by unfold State.drawByte; split <;> rfl
@[simp] theorem State.drawByte_chip (s : State) : s.drawByte.2.chip = s.chip := by unfold State.drawByte; split <;> rfl
@[simp] theorem State.drawByte_timerCompare (s : State) : s.drawByte.2.timerCompare = s.timerCompare := by unfold State.drawByte; split <;> rfl
@[simp] theorem State.drawByte_returned (s : State) : s.drawByte.2.returned = s.returned := by unfold State.drawByte; split <;> rfl
@[simp] theorem State.drawByte_schedule (s : State) : s.drawByte.2.schedule = s.schedule := by unfold State.drawByte; split <;> rfl

/-! ### `State.drawFrame`: only the oracle changes -/

@[simp] theorem State.drawFrame_params (s : State) : s.drawFrame.2.params = s.params := by unfold State.drawFrame; split <;> rfl
@[simp] theorem State.drawFrame_cycleDue (s : State) : s.drawFrame.2.cycleDue = s.cycleDue := by unfold State.drawFrame; split <;> rfl
@[simp] theorem State.drawFrame_phase (s : State) : s.drawFrame.2.phase = s.phase := by unfold State.drawFrame; split <;> rfl
@[simp] theorem State.drawFrame_cache (s : State) : s.drawFrame.2.cache = s.cache := by unfold State.drawFrame; split <;> rfl
@[simp] theorem State.drawFrame_ctrl (s : State) : s.drawFrame.2.ctrl = s.ctrl := by unfold State.drawFrame; split <;> rfl
@[simp] theorem State.drawFrame_bus (s : State) : s.drawFrame.2.bus = s.bus := by unfold State.drawFrame; split <;> rfl
@[simp] theorem State.drawFrame_faults (s : State) : s.drawFrame.2.faults = s.faults := by unfold State.drawFrame; split <;> rfl
@[simp] theorem State.drawFrame_refused (s : State) : s.drawFrame.2.refused = s.refused := by unfold State.drawFrame; split <;> rfl
@[simp] theorem State.drawFrame_runState (s : State) : s.drawFrame.2.runState = s.runState := by unfold State.drawFrame; split <;> rfl
@[simp] theorem State.drawFrame_errorCode (s : State) : s.drawFrame.2.errorCode = s.errorCode := by unfold State.drawFrame; split <;> rfl
@[simp] theorem State.drawFrame_desired (s : State) : s.drawFrame.2.desired = s.desired := by unfold State.drawFrame; split <;> rfl
@[simp] theorem State.drawFrame_nodeId (s : State) : s.drawFrame.2.nodeId = s.nodeId := by unfold State.drawFrame; split <;> rfl
@[simp] theorem State.drawFrame_chip (s : State) : s.drawFrame.2.chip = s.chip := by unfold State.drawFrame; split <;> rfl
@[simp] theorem State.drawFrame_timerCompare (s : State) : s.drawFrame.2.timerCompare = s.timerCompare := by unfold State.drawFrame; split <;> rfl
@[simp] theorem State.drawFrame_returned (s : State) : s.drawFrame.2.returned = s.returned := by unfold State.drawFrame; split <;> rfl
@[simp] theorem State.drawFrame_schedule (s : State) : s.drawFrame.2.schedule = s.schedule := by unfold State.drawFrame; split <;> rfl

/-! ### `State.drawChanges`: only the oracle changes -/

@[simp] theorem State.drawChanges_params (s : State) : s.drawChanges.2.params = s.params := by unfold State.drawChanges; split <;> rfl
@[simp] theorem State.drawChanges_cycleDue (s : State) : s.drawChanges.2.cycleDue = s.cycleDue := by unfold State.drawChanges; split <;> rfl
@[simp] theorem State.drawChanges_phase (s : State) : s.drawChanges.2.phase = s.phase := by unfold State.drawChanges; split <;> rfl
@[simp] theorem State.drawChanges_cache (s : State) : s.drawChanges.2.cache = s.cache := by unfold State.drawChanges; split <;> rfl
@[simp] theorem State.drawChanges_ctrl (s : State) : s.drawChanges.2.ctrl = s.ctrl := by unfold State.drawChanges; split <;> rfl
@[simp] theorem State.drawChanges_bus (s : State) : s.drawChanges.2.bus = s.bus := by unfold State.drawChanges; split <;> rfl
@[simp] theorem State.drawChanges_faults (s : State) : s.drawChanges.2.faults = s.faults := by unfold State.drawChanges; split <;> rfl
@[simp] theorem State.drawChanges_refused (s : State) : s.drawChanges.2.refused = s.refused := by unfold State.drawChanges; split <;> rfl
@[simp] theorem State.drawChanges_runState (s : State) : s.drawChanges.2.runState = s.runState := by unfold State.drawChanges; split <;> rfl
@[simp] theorem State.drawChanges_errorCode (s : State) : s.drawChanges.2.errorCode = s.errorCode := by unfold State.drawChanges; split <;> rfl
@[simp] theorem State.drawChanges_desired (s : State) : s.drawChanges.2.desired = s.desired := by unfold State.drawChanges; split <;> rfl
@[simp] theorem State.drawChanges_nodeId (s : State) : s.drawChanges.2.nodeId = s.nodeId := by unfold State.drawChanges; split <;> rfl
@[simp] theorem State.drawChanges_chip (s : State) : s.drawChanges.2.chip = s.chip := by unfold State.drawChanges; split <;> rfl
@[simp] theorem State.drawChanges_timerCompare (s : State) : s.drawChanges.2.timerCompare = s.timerCompare := by unfold State.drawChanges; split <;> rfl
@[simp] theorem State.drawChanges_returned (s : State) : s.drawChanges.2.returned = s.returned := by unfold State.drawChanges; split <;> rfl
@[simp] theorem State.drawChanges_schedule (s : State) : s.drawChanges.2.schedule = s.schedule := by unfold State.drawChanges; split <;> rfl

/-! ### `State.drawLanding`: only the oracle changes -/

@[simp] theorem State.drawLanding_params (s : State) : s.drawLanding.2.params = s.params := by unfold State.drawLanding; split <;> rfl
@[simp] theorem State.drawLanding_cycleDue (s : State) : s.drawLanding.2.cycleDue = s.cycleDue := by unfold State.drawLanding; split <;> rfl
@[simp] theorem State.drawLanding_phase (s : State) : s.drawLanding.2.phase = s.phase := by unfold State.drawLanding; split <;> rfl
@[simp] theorem State.drawLanding_cache (s : State) : s.drawLanding.2.cache = s.cache := by unfold State.drawLanding; split <;> rfl
@[simp] theorem State.drawLanding_ctrl (s : State) : s.drawLanding.2.ctrl = s.ctrl := by unfold State.drawLanding; split <;> rfl
@[simp] theorem State.drawLanding_bus (s : State) : s.drawLanding.2.bus = s.bus := by unfold State.drawLanding; split <;> rfl
@[simp] theorem State.drawLanding_faults (s : State) : s.drawLanding.2.faults = s.faults := by unfold State.drawLanding; split <;> rfl
@[simp] theorem State.drawLanding_refused (s : State) : s.drawLanding.2.refused = s.refused := by unfold State.drawLanding; split <;> rfl
@[simp] theorem State.drawLanding_runState (s : State) : s.drawLanding.2.runState = s.runState := by unfold State.drawLanding; split <;> rfl
@[simp] theorem State.drawLanding_errorCode (s : State) : s.drawLanding.2.errorCode = s.errorCode := by unfold State.drawLanding; split <;> rfl
@[simp] theorem State.drawLanding_desired (s : State) : s.drawLanding.2.desired = s.desired := by unfold State.drawLanding; split <;> rfl
@[simp] theorem State.drawLanding_nodeId (s : State) : s.drawLanding.2.nodeId = s.nodeId := by unfold State.drawLanding; split <;> rfl
@[simp] theorem State.drawLanding_chip (s : State) : s.drawLanding.2.chip = s.chip := by unfold State.drawLanding; split <;> rfl
@[simp] theorem State.drawLanding_timerCompare (s : State) : s.drawLanding.2.timerCompare = s.timerCompare := by unfold State.drawLanding; split <;> rfl
@[simp] theorem State.drawLanding_returned (s : State) : s.drawLanding.2.returned = s.returned := by unfold State.drawLanding; split <;> rfl
@[simp] theorem State.drawLanding_schedule (s : State) : s.drawLanding.2.schedule = s.schedule := by unfold State.drawLanding; split <;> rfl

/-! ### `State.drawGaps`: only the oracle changes -/

@[simp] theorem State.drawGaps_params (s : State) : s.drawGaps.2.params = s.params := by unfold State.drawGaps; split <;> rfl
@[simp] theorem State.drawGaps_cycleDue (s : State) : s.drawGaps.2.cycleDue = s.cycleDue := by unfold State.drawGaps; split <;> rfl
@[simp] theorem State.drawGaps_phase (s : State) : s.drawGaps.2.phase = s.phase := by unfold State.drawGaps; split <;> rfl
@[simp] theorem State.drawGaps_cache (s : State) : s.drawGaps.2.cache = s.cache := by unfold State.drawGaps; split <;> rfl
@[simp] theorem State.drawGaps_ctrl (s : State) : s.drawGaps.2.ctrl = s.ctrl := by unfold State.drawGaps; split <;> rfl
@[simp] theorem State.drawGaps_bus (s : State) : s.drawGaps.2.bus = s.bus := by unfold State.drawGaps; split <;> rfl
@[simp] theorem State.drawGaps_faults (s : State) : s.drawGaps.2.faults = s.faults := by unfold State.drawGaps; split <;> rfl
@[simp] theorem State.drawGaps_refused (s : State) : s.drawGaps.2.refused = s.refused := by unfold State.drawGaps; split <;> rfl
@[simp] theorem State.drawGaps_runState (s : State) : s.drawGaps.2.runState = s.runState := by unfold State.drawGaps; split <;> rfl
@[simp] theorem State.drawGaps_errorCode (s : State) : s.drawGaps.2.errorCode = s.errorCode := by unfold State.drawGaps; split <;> rfl
@[simp] theorem State.drawGaps_desired (s : State) : s.drawGaps.2.desired = s.desired := by unfold State.drawGaps; split <;> rfl
@[simp] theorem State.drawGaps_nodeId (s : State) : s.drawGaps.2.nodeId = s.nodeId := by unfold State.drawGaps; split <;> rfl
@[simp] theorem State.drawGaps_chip (s : State) : s.drawGaps.2.chip = s.chip := by unfold State.drawGaps; split <;> rfl
@[simp] theorem State.drawGaps_timerCompare (s : State) : s.drawGaps.2.timerCompare = s.timerCompare := by unfold State.drawGaps; split <;> rfl
@[simp] theorem State.drawGaps_returned (s : State) : s.drawGaps.2.returned = s.returned := by unfold State.drawGaps; split <;> rfl
@[simp] theorem State.drawGaps_schedule (s : State) : s.drawGaps.2.schedule = s.schedule := by unfold State.drawGaps; split <;> rfl

/-- A draw of gaps as an update of the state: the oracle alone. -/
theorem State.drawGaps_eq (s : State) : s.drawGaps.2 = { s with oracle := s.drawGaps.2.oracle } := by
  unfold State.drawGaps; split <;> rfl

/-! ### `State.drawTick`: only the oracle changes -/

@[simp] theorem State.drawTick_params (s : State) : s.drawTick.2.params = s.params := rfl
@[simp] theorem State.drawTick_cycleDue (s : State) : s.drawTick.2.cycleDue = s.cycleDue := rfl
@[simp] theorem State.drawTick_phase (s : State) : s.drawTick.2.phase = s.phase := rfl
@[simp] theorem State.drawTick_cache (s : State) : s.drawTick.2.cache = s.cache := rfl
@[simp] theorem State.drawTick_ctrl (s : State) : s.drawTick.2.ctrl = s.ctrl := rfl
@[simp] theorem State.drawTick_bus (s : State) : s.drawTick.2.bus = s.bus := rfl
@[simp] theorem State.drawTick_faults (s : State) : s.drawTick.2.faults = s.faults := rfl
@[simp] theorem State.drawTick_refused (s : State) : s.drawTick.2.refused = s.refused := rfl
@[simp] theorem State.drawTick_runState (s : State) : s.drawTick.2.runState = s.runState := rfl
@[simp] theorem State.drawTick_errorCode (s : State) : s.drawTick.2.errorCode = s.errorCode := rfl
@[simp] theorem State.drawTick_desired (s : State) : s.drawTick.2.desired = s.desired := rfl
@[simp] theorem State.drawTick_nodeId (s : State) : s.drawTick.2.nodeId = s.nodeId := rfl
@[simp] theorem State.drawTick_chip (s : State) : s.drawTick.2.chip = s.chip := rfl
@[simp] theorem State.drawTick_timerCompare (s : State) : s.drawTick.2.timerCompare = s.timerCompare := rfl
@[simp] theorem State.drawTick_returned (s : State) : s.drawTick.2.returned = s.returned := rfl
@[simp] theorem State.drawTick_schedule (s : State) : s.drawTick.2.schedule = s.schedule := rfl

/-! ### The stack's changes: only the three inputs change -/

@[simp] theorem State.applyChange_params (s : State) (c : HostChange) : (s.applyChange c).params = s.params := by cases c <;> rfl
@[simp] theorem State.applyChanges_params (s : State) (cs : List HostChange) : (s.applyChanges cs).params = s.params := by
  induction cs generalizing s with
  | nil => rfl
  | cons c cs ih => exact (ih (s.applyChange c)).trans (by simp)
@[simp] theorem State.applyChange_cycleDue (s : State) (c : HostChange) : (s.applyChange c).cycleDue = s.cycleDue := by cases c <;> rfl
@[simp] theorem State.applyChanges_cycleDue (s : State) (cs : List HostChange) : (s.applyChanges cs).cycleDue = s.cycleDue := by
  induction cs generalizing s with
  | nil => rfl
  | cons c cs ih => exact (ih (s.applyChange c)).trans (by simp)
@[simp] theorem State.applyChange_phase (s : State) (c : HostChange) : (s.applyChange c).phase = s.phase := by cases c <;> rfl
@[simp] theorem State.applyChanges_phase (s : State) (cs : List HostChange) : (s.applyChanges cs).phase = s.phase := by
  induction cs generalizing s with
  | nil => rfl
  | cons c cs ih => exact (ih (s.applyChange c)).trans (by simp)
@[simp] theorem State.applyChange_cache (s : State) (c : HostChange) : (s.applyChange c).cache = s.cache := by cases c <;> rfl
@[simp] theorem State.applyChanges_cache (s : State) (cs : List HostChange) : (s.applyChanges cs).cache = s.cache := by
  induction cs generalizing s with
  | nil => rfl
  | cons c cs ih => exact (ih (s.applyChange c)).trans (by simp)
@[simp] theorem State.applyChange_ctrl (s : State) (c : HostChange) : (s.applyChange c).ctrl = s.ctrl := by cases c <;> rfl
@[simp] theorem State.applyChanges_ctrl (s : State) (cs : List HostChange) : (s.applyChanges cs).ctrl = s.ctrl := by
  induction cs generalizing s with
  | nil => rfl
  | cons c cs ih => exact (ih (s.applyChange c)).trans (by simp)
@[simp] theorem State.applyChange_bus (s : State) (c : HostChange) : (s.applyChange c).bus = s.bus := by cases c <;> rfl
@[simp] theorem State.applyChanges_bus (s : State) (cs : List HostChange) : (s.applyChanges cs).bus = s.bus := by
  induction cs generalizing s with
  | nil => rfl
  | cons c cs ih => exact (ih (s.applyChange c)).trans (by simp)
@[simp] theorem State.applyChange_faults (s : State) (c : HostChange) : (s.applyChange c).faults = s.faults := by cases c <;> rfl
@[simp] theorem State.applyChanges_faults (s : State) (cs : List HostChange) : (s.applyChanges cs).faults = s.faults := by
  induction cs generalizing s with
  | nil => rfl
  | cons c cs ih => exact (ih (s.applyChange c)).trans (by simp)
@[simp] theorem State.applyChange_refused (s : State) (c : HostChange) : (s.applyChange c).refused = s.refused := by cases c <;> rfl
@[simp] theorem State.applyChanges_refused (s : State) (cs : List HostChange) : (s.applyChanges cs).refused = s.refused := by
  induction cs generalizing s with
  | nil => rfl
  | cons c cs ih => exact (ih (s.applyChange c)).trans (by simp)
@[simp] theorem State.applyChange_nodeId (s : State) (c : HostChange) : (s.applyChange c).nodeId = s.nodeId := by cases c <;> rfl
@[simp] theorem State.applyChanges_nodeId (s : State) (cs : List HostChange) : (s.applyChanges cs).nodeId = s.nodeId := by
  induction cs generalizing s with
  | nil => rfl
  | cons c cs ih => exact (ih (s.applyChange c)).trans (by simp)
@[simp] theorem State.applyChange_chip (s : State) (c : HostChange) : (s.applyChange c).chip = s.chip := by cases c <;> rfl
@[simp] theorem State.applyChanges_chip (s : State) (cs : List HostChange) : (s.applyChanges cs).chip = s.chip := by
  induction cs generalizing s with
  | nil => rfl
  | cons c cs ih => exact (ih (s.applyChange c)).trans (by simp)
@[simp] theorem State.applyChange_timerCompare (s : State) (c : HostChange) : (s.applyChange c).timerCompare = s.timerCompare := by cases c <;> rfl
@[simp] theorem State.applyChanges_timerCompare (s : State) (cs : List HostChange) : (s.applyChanges cs).timerCompare = s.timerCompare := by
  induction cs generalizing s with
  | nil => rfl
  | cons c cs ih => exact (ih (s.applyChange c)).trans (by simp)
@[simp] theorem State.applyChange_returned (s : State) (c : HostChange) : (s.applyChange c).returned = s.returned := by cases c <;> rfl
@[simp] theorem State.applyChanges_returned (s : State) (cs : List HostChange) : (s.applyChanges cs).returned = s.returned := by
  induction cs generalizing s with
  | nil => rfl
  | cons c cs ih => exact (ih (s.applyChange c)).trans (by simp)
@[simp] theorem State.applyChange_schedule (s : State) (c : HostChange) : (s.applyChange c).schedule = s.schedule := by cases c <;> rfl
@[simp] theorem State.applyChanges_schedule (s : State) (cs : List HostChange) : (s.applyChanges cs).schedule = s.schedule := by
  induction cs generalizing s with
  | nil => rfl
  | cons c cs ih => exact (ih (s.applyChange c)).trans (by simp)
@[simp] theorem State.applyChange_oracle (s : State) (c : HostChange) : (s.applyChange c).oracle = s.oracle := by cases c <;> rfl
@[simp] theorem State.applyChanges_oracle (s : State) (cs : List HostChange) : (s.applyChanges cs).oracle = s.oracle := by
  induction cs generalizing s with
  | nil => rfl
  | cons c cs ih => exact (ih (s.applyChange c)).trans (by simp)

@[simp] theorem stackActs_params (s : State) : (stackActs s).params = s.params := by simp [stackActs]
@[simp] theorem stackActs_cycleDue (s : State) : (stackActs s).cycleDue = s.cycleDue := by simp [stackActs]
@[simp] theorem stackActs_phase (s : State) : (stackActs s).phase = s.phase := by simp [stackActs]
@[simp] theorem stackActs_cache (s : State) : (stackActs s).cache = s.cache := by simp [stackActs]
@[simp] theorem stackActs_ctrl (s : State) : (stackActs s).ctrl = s.ctrl := by simp [stackActs]
@[simp] theorem stackActs_bus (s : State) : (stackActs s).bus = s.bus := by simp [stackActs]
@[simp] theorem stackActs_faults (s : State) : (stackActs s).faults = s.faults := by simp [stackActs]
@[simp] theorem stackActs_refused (s : State) : (stackActs s).refused = s.refused := by simp [stackActs]
@[simp] theorem stackActs_nodeId (s : State) : (stackActs s).nodeId = s.nodeId := by simp [stackActs]
@[simp] theorem stackActs_chip (s : State) : (stackActs s).chip = s.chip := by simp [stackActs]
@[simp] theorem stackActs_timerCompare (s : State) : (stackActs s).timerCompare = s.timerCompare := by simp [stackActs]
@[simp] theorem stackActs_returned (s : State) : (stackActs s).returned = s.returned := by simp [stackActs]
@[simp] theorem stackActs_schedule (s : State) : (stackActs s).schedule = s.schedule := by simp [stackActs]

/-! ### An announced change: only the oracle changes -/

@[simp] theorem State.announce_params (s : State) (c : HostChange) : (s.announce c).params = s.params := by unfold State.announce; split <;> rfl
@[simp] theorem State.announce_cycleDue (s : State) (c : HostChange) : (s.announce c).cycleDue = s.cycleDue := by unfold State.announce; split <;> rfl
@[simp] theorem State.announce_phase (s : State) (c : HostChange) : (s.announce c).phase = s.phase := by unfold State.announce; split <;> rfl
@[simp] theorem State.announce_cache (s : State) (c : HostChange) : (s.announce c).cache = s.cache := by unfold State.announce; split <;> rfl
@[simp] theorem State.announce_ctrl (s : State) (c : HostChange) : (s.announce c).ctrl = s.ctrl := by unfold State.announce; split <;> rfl
@[simp] theorem State.announce_bus (s : State) (c : HostChange) : (s.announce c).bus = s.bus := by unfold State.announce; split <;> rfl
@[simp] theorem State.announce_faults (s : State) (c : HostChange) : (s.announce c).faults = s.faults := by unfold State.announce; split <;> rfl
@[simp] theorem State.announce_refused (s : State) (c : HostChange) : (s.announce c).refused = s.refused := by unfold State.announce; split <;> rfl
@[simp] theorem State.announce_runState (s : State) (c : HostChange) : (s.announce c).runState = s.runState := by unfold State.announce; split <;> rfl
@[simp] theorem State.announce_errorCode (s : State) (c : HostChange) : (s.announce c).errorCode = s.errorCode := by unfold State.announce; split <;> rfl
@[simp] theorem State.announce_desired (s : State) (c : HostChange) : (s.announce c).desired = s.desired := by unfold State.announce; split <;> rfl
@[simp] theorem State.announce_nodeId (s : State) (c : HostChange) : (s.announce c).nodeId = s.nodeId := by unfold State.announce; split <;> rfl
@[simp] theorem State.announce_chip (s : State) (c : HostChange) : (s.announce c).chip = s.chip := by unfold State.announce; split <;> rfl
@[simp] theorem State.announce_timerCompare (s : State) (c : HostChange) : (s.announce c).timerCompare = s.timerCompare := by unfold State.announce; split <;> rfl
@[simp] theorem State.announce_returned (s : State) (c : HostChange) : (s.announce c).returned = s.returned := by unfold State.announce; split <;> rfl
@[simp] theorem State.announce_schedule (s : State) (c : HostChange) : (s.announce c).schedule = s.schedule := by unfold State.announce; split <;> rfl

/-- The stack's next chance begins with the changes already announced for it, and the new one comes last. -/
theorem State.announce_changes (s : State) (c : HostChange) :
    (s.announce c).oracle.changes = (s.oracle.changes.headD [] ++ [c]) :: s.oracle.changes.tail := by
  unfold State.announce; split <;> simp_all

/-- An announcement as an update of the state: the oracle alone. -/
theorem State.announce_eq (s : State) (c : HostChange) : s.announce c = { s with oracle := (s.announce c).oracle } := by
  unfold State.announce; split <;> rfl

end Sys2Proof.Machine
end

