-- ==== Sys2Proof/Laws/Ops.lean ====
section
/-!
SUPPORT. What the shared operations can do, said once: the bus primitives append events and touch nothing of the block but the
history; a write leaves in the chip what R54 allows.
-/

namespace Sys2Proof.Machine

/-! ### Data bytes landing at the chip -/

theorem LandsOrKeeps.refl_nil (m : Memory) (r : Nat) : LandsOrKeeps m m r [] :=
  ⟨fun _ _ => rfl, fun _ h => absurd h (Nat.not_lt_zero _)⟩

theorem landBytes_cons (r : Nat) (d : Byte) (ds : List Byte) (s : State) :
    landBytes r (d :: ds) s = landBytes (r + 1) ds (if s.drawLanding.1 then
      { s.drawLanding.2 with chip := Memory.write s.drawLanding.2.chip r d } else s.drawLanding.2) := rfl

@[simp] theorem landBytes_params (r : Nat) (ds : List Byte) (s : State) : (landBytes r ds s).params = s.params := by
  induction ds generalizing r s with
  | nil => rfl
  | cons d ds ih => rw [landBytes_cons, ih]; split <;> simp
@[simp] theorem landBytes_cycleDue (r : Nat) (ds : List Byte) (s : State) : (landBytes r ds s).cycleDue = s.cycleDue := by
  induction ds generalizing r s with
  | nil => rfl
  | cons d ds ih => rw [landBytes_cons, ih]; split <;> simp
@[simp] theorem landBytes_phase (r : Nat) (ds : List Byte) (s : State) : (landBytes r ds s).phase = s.phase := by
  induction ds generalizing r s with
  | nil => rfl
  | cons d ds ih => rw [landBytes_cons, ih]; split <;> simp
@[simp] theorem landBytes_cache (r : Nat) (ds : List Byte) (s : State) : (landBytes r ds s).cache = s.cache := by
  induction ds generalizing r s with
  | nil => rfl
  | cons d ds ih => rw [landBytes_cons, ih]; split <;> simp
@[simp] theorem landBytes_ctrl (r : Nat) (ds : List Byte) (s : State) : (landBytes r ds s).ctrl = s.ctrl := by
  induction ds generalizing r s with
  | nil => rfl
  | cons d ds ih => rw [landBytes_cons, ih]; split <;> simp
@[simp] theorem landBytes_faults (r : Nat) (ds : List Byte) (s : State) : (landBytes r ds s).faults = s.faults := by
  induction ds generalizing r s with
  | nil => rfl
  | cons d ds ih => rw [landBytes_cons, ih]; split <;> simp
@[simp] theorem landBytes_refused (r : Nat) (ds : List Byte) (s : State) : (landBytes r ds s).refused = s.refused := by
  induction ds generalizing r s with
  | nil => rfl
  | cons d ds ih => rw [landBytes_cons, ih]; split <;> simp
@[simp] theorem landBytes_runState (r : Nat) (ds : List Byte) (s : State) : (landBytes r ds s).runState = s.runState := by
  induction ds generalizing r s with
  | nil => rfl
  | cons d ds ih => rw [landBytes_cons, ih]; split <;> simp
@[simp] theorem landBytes_errorCode (r : Nat) (ds : List Byte) (s : State) : (landBytes r ds s).errorCode = s.errorCode := by
  induction ds generalizing r s with
  | nil => rfl
  | cons d ds ih => rw [landBytes_cons, ih]; split <;> simp
@[simp] theorem landBytes_desired (r : Nat) (ds : List Byte) (s : State) : (landBytes r ds s).desired = s.desired := by
  induction ds generalizing r s with
  | nil => rfl
  | cons d ds ih => rw [landBytes_cons, ih]; split <;> simp
@[simp] theorem landBytes_nodeId (r : Nat) (ds : List Byte) (s : State) : (landBytes r ds s).nodeId = s.nodeId := by
  induction ds generalizing r s with
  | nil => rfl
  | cons d ds ih => rw [landBytes_cons, ih]; split <;> simp
@[simp] theorem landBytes_timerCompare (r : Nat) (ds : List Byte) (s : State) : (landBytes r ds s).timerCompare = s.timerCompare := by
  induction ds generalizing r s with
  | nil => rfl
  | cons d ds ih => rw [landBytes_cons, ih]; split <;> simp
@[simp] theorem landBytes_returned (r : Nat) (ds : List Byte) (s : State) : (landBytes r ds s).returned = s.returned := by
  induction ds generalizing r s with
  | nil => rfl
  | cons d ds ih => rw [landBytes_cons, ih]; split <;> simp
@[simp] theorem landBytes_schedule (r : Nat) (ds : List Byte) (s : State) : (landBytes r ds s).schedule = s.schedule := by
  induction ds generalizing r s with
  | nil => rfl
  | cons d ds ih => rw [landBytes_cons, ih]; split <;> simp
@[simp] theorem landBytes_bus (r : Nat) (ds : List Byte) (s : State) : (landBytes r ds s).bus = s.bus := by
  induction ds generalizing r s with
  | nil => rfl
  | cons d ds ih => rw [landBytes_cons, ih]; split <;> simp

theorem landBytes_lands (r : Nat) (ds : List Byte) (s : State) : LandsOrKeeps s.chip (landBytes r ds s).chip r ds := by
  induction ds generalizing r s with
  | nil => exact .refl_nil _ _
  | cons d ds ih =>
    rw [landBytes_cons]
    generalize hs : (if s.drawLanding.1 then
      { s.drawLanding.2 with chip := Memory.write s.drawLanding.2.chip r d } else s.drawLanding.2 : State) = s₁
    have hfirst : Memory.read s₁.chip r = d ∨ Memory.read s₁.chip r = Memory.read s.chip r := by
      subst hs; split
      · exact .inl (by simp)
      · exact .inr (by simp)
    have hother : ∀ q, q ≠ r → Memory.read s₁.chip q = Memory.read s.chip q := by
      intro q hq; subst hs; split
      · simp [Memory.read_write_other _ _ hq]
      · simp
    obtain ⟨hout, hin⟩ := ih (r + 1) s₁
    refine ⟨fun q hq => ?_, fun j hj => ?_⟩
    · have hlen : (d :: ds).length = ds.length + 1 := rfl
      rw [hout q (by omega), hother q (by omega)]
    · cases j with
      | zero => simpa [hout r (.inl (Nat.lt_succ_self r))] using hfirst
      | succ j =>
        have hj' : j < ds.length := Nat.lt_of_succ_lt_succ hj
        have e : r + (j + 1) = r + 1 + j := by omega
        rw [e]
        rcases hin j hj' with h | h
        · exact .inl h
        · exact .inr (by rw [h, hother _ (by omega)])

theorem landBytes_wf (r : Nat) (ds : List Byte) (s : State) (h : Memory.wf s.chip = true) :
    Memory.wf (landBytes r ds s).chip = true := by
  induction ds generalizing r s with
  | nil => exact h
  | cons d ds ih =>
    rw [landBytes_cons]
    refine ih (r + 1) _ ?_
    split
    · exact Memory.wf_write r d (by simpa using h)
    · simpa using h

theorem landBytes_mem (r : Nat) (ds : List Byte) (s : State) {c : Host.Cell} (hc : c ∈ (landBytes r ds s).chip) :
    c ∈ s.chip ∨ (r ≤ c.1 ∧ c.1 < r + ds.length) := by
  induction ds generalizing r s with
  | nil => exact .inl hc
  | cons d ds ih =>
    rw [landBytes_cons] at hc
    have hlen : (d :: ds).length = ds.length + 1 := rfl
    rcases ih _ _ hc with h | h
    · split at h
      · rcases Memory.mem_write h with h | h
        · exact .inr (by subst h; show r ≤ r ∧ r < r + _; omega)
        · exact .inl (by simpa using h)
      · exact .inl (by simpa using h)
    · exact .inr (by omega)

/-! ### Bus primitives -/

@[simp] theorem landWrite_params (a : BusAddr) (bs : List Byte) (s : State) : (landWrite a bs s).params = s.params := by
  unfold landWrite; split
  · rfl
  · split <;> simp
@[simp] theorem landWrite_cycleDue (a : BusAddr) (bs : List Byte) (s : State) : (landWrite a bs s).cycleDue = s.cycleDue := by
  unfold landWrite; split
  · rfl
  · split <;> simp
@[simp] theorem landWrite_phase (a : BusAddr) (bs : List Byte) (s : State) : (landWrite a bs s).phase = s.phase := by
  unfold landWrite; split
  · rfl
  · split <;> simp
@[simp] theorem landWrite_cache (a : BusAddr) (bs : List Byte) (s : State) : (landWrite a bs s).cache = s.cache := by
  unfold landWrite; split
  · rfl
  · split <;> simp
@[simp] theorem landWrite_ctrl (a : BusAddr) (bs : List Byte) (s : State) : (landWrite a bs s).ctrl = s.ctrl := by
  unfold landWrite; split
  · rfl
  · split <;> simp
@[simp] theorem landWrite_faults (a : BusAddr) (bs : List Byte) (s : State) : (landWrite a bs s).faults = s.faults := by
  unfold landWrite; split
  · rfl
  · split <;> simp
@[simp] theorem landWrite_refused (a : BusAddr) (bs : List Byte) (s : State) : (landWrite a bs s).refused = s.refused := by
  unfold landWrite; split
  · rfl
  · split <;> simp
@[simp] theorem landWrite_runState (a : BusAddr) (bs : List Byte) (s : State) : (landWrite a bs s).runState = s.runState := by
  unfold landWrite; split
  · rfl
  · split <;> simp
@[simp] theorem landWrite_errorCode (a : BusAddr) (bs : List Byte) (s : State) : (landWrite a bs s).errorCode = s.errorCode := by
  unfold landWrite; split
  · rfl
  · split <;> simp
@[simp] theorem landWrite_desired (a : BusAddr) (bs : List Byte) (s : State) : (landWrite a bs s).desired = s.desired := by
  unfold landWrite; split
  · rfl
  · split <;> simp
@[simp] theorem landWrite_nodeId (a : BusAddr) (bs : List Byte) (s : State) : (landWrite a bs s).nodeId = s.nodeId := by
  unfold landWrite; split
  · rfl
  · split <;> simp
@[simp] theorem landWrite_timerCompare (a : BusAddr) (bs : List Byte) (s : State) : (landWrite a bs s).timerCompare = s.timerCompare := by
  unfold landWrite; split
  · rfl
  · split <;> simp
@[simp] theorem landWrite_returned (a : BusAddr) (bs : List Byte) (s : State) : (landWrite a bs s).returned = s.returned := by
  unfold landWrite; split
  · rfl
  · split <;> simp
@[simp] theorem landWrite_schedule (a : BusAddr) (bs : List Byte) (s : State) : (landWrite a bs s).schedule = s.schedule := by
  unfold landWrite; split
  · rfl
  · split <;> simp
@[simp] theorem landWrite_bus (a : BusAddr) (bs : List Byte) (s : State) : (landWrite a bs s).bus = s.bus := by
  unfold landWrite; split
  · rfl
  · split <;> simp
@[simp] theorem busWrite_params (a : BusAddr) (bs : List Byte) (s : State) : (busWrite a bs s).params = s.params := by simp [busWrite]
@[simp] theorem busWrite_cycleDue (a : BusAddr) (bs : List Byte) (s : State) : (busWrite a bs s).cycleDue = s.cycleDue := by simp [busWrite]
@[simp] theorem busWrite_phase (a : BusAddr) (bs : List Byte) (s : State) : (busWrite a bs s).phase = s.phase := by simp [busWrite]
@[simp] theorem busWrite_cache (a : BusAddr) (bs : List Byte) (s : State) : (busWrite a bs s).cache = s.cache := by simp [busWrite]
@[simp] theorem busWrite_ctrl (a : BusAddr) (bs : List Byte) (s : State) : (busWrite a bs s).ctrl = s.ctrl := by simp [busWrite]
@[simp] theorem busWrite_faults (a : BusAddr) (bs : List Byte) (s : State) : (busWrite a bs s).faults = s.faults := by simp [busWrite]
@[simp] theorem busWrite_refused (a : BusAddr) (bs : List Byte) (s : State) : (busWrite a bs s).refused = s.refused := by simp [busWrite]
@[simp] theorem busWrite_runState (a : BusAddr) (bs : List Byte) (s : State) : (busWrite a bs s).runState = s.runState := by simp [busWrite]
@[simp] theorem busWrite_errorCode (a : BusAddr) (bs : List Byte) (s : State) : (busWrite a bs s).errorCode = s.errorCode := by simp [busWrite]
@[simp] theorem busWrite_desired (a : BusAddr) (bs : List Byte) (s : State) : (busWrite a bs s).desired = s.desired := by simp [busWrite]
@[simp] theorem busWrite_nodeId (a : BusAddr) (bs : List Byte) (s : State) : (busWrite a bs s).nodeId = s.nodeId := by simp [busWrite]
@[simp] theorem busWrite_timerCompare (a : BusAddr) (bs : List Byte) (s : State) : (busWrite a bs s).timerCompare = s.timerCompare := by simp [busWrite]
@[simp] theorem busWrite_returned (a : BusAddr) (bs : List Byte) (s : State) : (busWrite a bs s).returned = s.returned := by simp [busWrite]
@[simp] theorem busWrite_schedule (a : BusAddr) (bs : List Byte) (s : State) : (busWrite a bs s).schedule = s.schedule := by simp [busWrite]
@[simp] theorem busWrite_bus (a : BusAddr) (bs : List Byte) (s : State) : (busWrite a bs s).bus = s.bus ++ [.write a bs] := by
  simp [busWrite]

/-- A write transaction changes the history, the chip and the draws left, and nothing else. -/
theorem busWrite_eq (a : BusAddr) (bs : List Byte) (s : State) :
    busWrite a bs s = { s with bus := s.bus ++ [.write a bs], chip := (busWrite a bs s).chip,
                               oracle := (busWrite a bs s).oracle } := by
  ext1 <;> simp

theorem busWrite_effect (a : BusAddr) (r : Byte) (ds : List Byte) (s : State) :
    WriteEffect s.params a r ds s.chip (busWrite a (r :: ds) s).chip := by
  unfold WriteEffect busWrite landWrite
  split
  · rename_i h
    simpa [h] using landBytes_lands r.toNat ds (s.appendEvent (.write a (r :: ds)))
  · rename_i h
    simp [h]

theorem busWrite_wf (a : BusAddr) (bs : List Byte) (s : State) (h : Memory.wf s.chip = true) :
    Memory.wf (busWrite a bs s).chip = true := by
  unfold busWrite landWrite
  split
  · exact h
  · split
    · exact landBytes_wf _ _ _ h
    · exact h

theorem busWrite_mem (a : BusAddr) (r : Byte) (ds : List Byte) (s : State) {c : Host.Cell}
    (hc : c ∈ (busWrite a (r :: ds) s).chip) : c ∈ s.chip ∨ (r.toNat ≤ c.1 ∧ c.1 < r.toNat + ds.length) := by
  unfold busWrite landWrite at hc
  simp only at hc
  split at hc
  · simpa using landBytes_mem _ _ _ hc
  · exact .inl hc

@[simp] theorem busRead_params (a : BusAddr) (r : Byte) (s : State) : (busRead a r s).2.params = s.params := by simp [busRead, busReadReturning]
@[simp] theorem busRead_cycleDue (a : BusAddr) (r : Byte) (s : State) : (busRead a r s).2.cycleDue = s.cycleDue := by simp [busRead, busReadReturning]
@[simp] theorem busRead_phase (a : BusAddr) (r : Byte) (s : State) : (busRead a r s).2.phase = s.phase := by simp [busRead, busReadReturning]
@[simp] theorem busRead_cache (a : BusAddr) (r : Byte) (s : State) : (busRead a r s).2.cache = s.cache := by simp [busRead, busReadReturning]
@[simp] theorem busRead_ctrl (a : BusAddr) (r : Byte) (s : State) : (busRead a r s).2.ctrl = s.ctrl := by simp [busRead, busReadReturning]
@[simp] theorem busRead_faults (a : BusAddr) (r : Byte) (s : State) : (busRead a r s).2.faults = s.faults := by simp [busRead, busReadReturning]
@[simp] theorem busRead_refused (a : BusAddr) (r : Byte) (s : State) : (busRead a r s).2.refused = s.refused := by simp [busRead, busReadReturning]
@[simp] theorem busRead_runState (a : BusAddr) (r : Byte) (s : State) : (busRead a r s).2.runState = s.runState := by simp [busRead, busReadReturning]
@[simp] theorem busRead_errorCode (a : BusAddr) (r : Byte) (s : State) : (busRead a r s).2.errorCode = s.errorCode := by simp [busRead, busReadReturning]
@[simp] theorem busRead_desired (a : BusAddr) (r : Byte) (s : State) : (busRead a r s).2.desired = s.desired := by simp [busRead, busReadReturning]
@[simp] theorem busRead_nodeId (a : BusAddr) (r : Byte) (s : State) : (busRead a r s).2.nodeId = s.nodeId := by simp [busRead, busReadReturning]
@[simp] theorem busRead_timerCompare (a : BusAddr) (r : Byte) (s : State) : (busRead a r s).2.timerCompare = s.timerCompare := by simp [busRead, busReadReturning]
@[simp] theorem busRead_returned (a : BusAddr) (r : Byte) (s : State) : (busRead a r s).2.returned = s.returned := by simp [busRead, busReadReturning]
@[simp] theorem busRead_schedule (a : BusAddr) (r : Byte) (s : State) : (busRead a r s).2.schedule = s.schedule := by simp [busRead, busReadReturning]
@[simp] theorem busRead_chip (a : BusAddr) (r : Byte) (s : State) : (busRead a r s).2.chip = s.chip := by simp [busRead, busReadReturning]
@[simp] theorem busRead_bus (a : BusAddr) (r : Byte) (s : State) :
    (busRead a r s).2.bus = s.bus ++ [.read a r s.drawByte.1] := by simp [busRead, busReadReturning]
@[simp] theorem busRead_value (a : BusAddr) (r : Byte) (s : State) : (busRead a r s).1 = s.drawByte.1 := rfl
@[simp] theorem busRead_oracle (a : BusAddr) (r : Byte) (s : State) :
    (busRead a r s).2.oracle = s.drawByte.2.oracle := rfl

/-! ### Outcomes -/

theorem State.raise_stopped (s : State) (r : Reason) (i : Instr) (a b : Agent) :
    (s.raise r (.operation i a)).stopped b = (s.stopped b || a == b) := by
  simp [State.stopped, Cause.stops]

theorem guardDomain_none {i : Instr} (h : domainRefusal i = none) (a : Agent) (s : State)
    (run : State → Host.Outcome State Fault Refusal) : guardDomain i a s run = run s := by
  simp [guardDomain, h]

theorem guardDomain_some {i : Instr} {r : Reason} (h : domainRefusal i = some r) (a : Agent) (s : State)
    (run : State → Host.Outcome State Fault Refusal) : guardDomain i a s run = .next (s.raise r (.operation i a)) := by
  simp [guardDomain, h]

end Sys2Proof.Machine
end

