-- ==== Sys2Proof/Laws/Driver.lean ====
section
/-!
SUPPORT. What the driver's operations can do (spec/40_pwm_driver.md): which fields they touch, what they put on the bus, what they
may leave in the chip; and when an operand is inside its domain.
-/

namespace Sys2Proof.Machine

/-! ### Domains -/

theorem checkAddress_none {a : Nat} (h : a ≤ 127) : checkAddress a = none := by simp [checkAddress]; omega
theorem checkByte_none {v : Nat} (h : v ≤ 255) : checkByte v = none := by simp [checkByte]; omega
theorem checkCount_none {v : Nat} (h : v ≤ 65535) : checkCount v = none := by simp [checkCount]; omega
theorem checkAddress_some {a : Nat} (h : 127 < a) : checkAddress a = some .addrRange := if_pos h
theorem checkByte_some {v : Nat} (h : 255 < v) : checkByte v = some .byteRange := if_pos h
theorem checkCount_some {v : Nat} (h : 65535 < v) : checkCount v = some .countRange := if_pos h
theorem checkNatural_some {q : Rat} (h : ¬ (q.den = 1 ∧ 0 ≤ q.num)) : checkNatural q = some .operandType := if_neg h
theorem checkNatural_natCast (n : Nat) : checkNatural (n : Rat) = none := by simp [checkNatural]

@[simp] theorem naturalOf_natCast (n : Nat) : naturalOf (n : Rat) = n := by simp [naturalOf]

theorem checkNatural_none {q : Rat} (hd : q.den = 1) (hn : 0 ≤ q.num) : checkNatural q = none := if_pos ⟨hd, hn⟩

theorem checkNatural_of_isNatural {q : Rat} (h : isNatural q = true) : checkNatural q = none := by
  simp only [isNatural, Bool.and_eq_true, beq_iff_eq, decide_eq_true_eq] at h
  exact checkNatural_none h.1 h.2

theorem checkNatural_of_isFrequency {q : Rat} (h : isFrequency q = true) : checkNatural q = none := by
  simp only [isFrequency, Bool.and_eq_true, beq_iff_eq, decide_eq_true_eq] at h
  exact checkNatural_none h.1 (by omega)

/-- A well-formed operation meets no refusal of R89. -/
theorem domainRefusal_of_wellFormed {p : Params} {i : Instr} (h : i.wellFormed p = true) : domainRefusal i = none := by
  cases i with
  | computePrescale f => exact checkNatural_of_isFrequency h
  | setFrequency a f =>
    simp only [Instr.wellFormed, Bool.and_eq_true, isAddress, decide_eq_true_eq] at h
    simp [domainRefusal, checkAddress_none h.1, checkNatural_of_isFrequency h.2]
  | writeRegister a r v =>
    simp only [Instr.wellFormed, Bool.and_eq_true, isAddress, isByte, decide_eq_true_eq] at h
    simp [domainRefusal, checkAddress_none h.1.1, checkByte_none h.1.2, checkByte_none h.2]
  | setChannelOutput a c on off =>
    simp only [Instr.wellFormed, Bool.and_eq_true, isAddress, isCount, decide_eq_true_eq] at h
    simp [domainRefusal, checkAddress_none h.1.1.1, checkNatural_of_isNatural h.1.1.2, checkCount_none h.1.2, checkCount_none h.2]
  | readRegister a r =>
    simp only [Instr.wellFormed, Bool.and_eq_true, isAddress, isByte, decide_eq_true_eq] at h
    simp [domainRefusal, checkAddress_none h.1, checkByte_none h.2]
  | _ => rfl

/-! ### `setChannelOutput` (R114, R116) -/

theorem setChannelOutput_unwired {c : Nat} (h : 16 ≤ c) (a : BusAddr) (on off : Count) (s : State) :
    setChannelOutput a c on off s = s := by
  simp [setChannelOutput, Config.nWired, h]

theorem setChannelOutput_wired {c : Nat} (h : c < 16) (a : BusAddr) (on off : Count) (s : State) :
    setChannelOutput a c on off s = busWrite a (chanReg s.params c :: countBytes on off) s := by
  simp [setChannelOutput, Config.nWired, Nat.not_le.2 h]

@[simp] theorem setChannelOutput_params (a : BusAddr) (c : Nat) (on off : Count) (s : State) :
    (setChannelOutput a c on off s).params = s.params := by unfold setChannelOutput; split <;> simp
@[simp] theorem setChannelOutput_cycleDue (a : BusAddr) (c : Nat) (on off : Count) (s : State) :
    (setChannelOutput a c on off s).cycleDue = s.cycleDue := by unfold setChannelOutput; split <;> simp
@[simp] theorem setChannelOutput_phase (a : BusAddr) (c : Nat) (on off : Count) (s : State) :
    (setChannelOutput a c on off s).phase = s.phase := by unfold setChannelOutput; split <;> simp
@[simp] theorem setChannelOutput_cache (a : BusAddr) (c : Nat) (on off : Count) (s : State) :
    (setChannelOutput a c on off s).cache = s.cache := by unfold setChannelOutput; split <;> simp
@[simp] theorem setChannelOutput_ctrl (a : BusAddr) (c : Nat) (on off : Count) (s : State) :
    (setChannelOutput a c on off s).ctrl = s.ctrl := by unfold setChannelOutput; split <;> simp
@[simp] theorem setChannelOutput_faults (a : BusAddr) (c : Nat) (on off : Count) (s : State) :
    (setChannelOutput a c on off s).faults = s.faults := by unfold setChannelOutput; split <;> simp
@[simp] theorem setChannelOutput_refused (a : BusAddr) (c : Nat) (on off : Count) (s : State) :
    (setChannelOutput a c on off s).refused = s.refused := by unfold setChannelOutput; split <;> simp
@[simp] theorem setChannelOutput_runState (a : BusAddr) (c : Nat) (on off : Count) (s : State) :
    (setChannelOutput a c on off s).runState = s.runState := by unfold setChannelOutput; split <;> simp
@[simp] theorem setChannelOutput_errorCode (a : BusAddr) (c : Nat) (on off : Count) (s : State) :
    (setChannelOutput a c on off s).errorCode = s.errorCode := by unfold setChannelOutput; split <;> simp
@[simp] theorem setChannelOutput_desired (a : BusAddr) (c : Nat) (on off : Count) (s : State) :
    (setChannelOutput a c on off s).desired = s.desired := by unfold setChannelOutput; split <;> simp
@[simp] theorem setChannelOutput_nodeId (a : BusAddr) (c : Nat) (on off : Count) (s : State) :
    (setChannelOutput a c on off s).nodeId = s.nodeId := by unfold setChannelOutput; split <;> simp
@[simp] theorem setChannelOutput_timerCompare (a : BusAddr) (c : Nat) (on off : Count) (s : State) :
    (setChannelOutput a c on off s).timerCompare = s.timerCompare := by unfold setChannelOutput; split <;> simp
@[simp] theorem setChannelOutput_returned (a : BusAddr) (c : Nat) (on off : Count) (s : State) :
    (setChannelOutput a c on off s).returned = s.returned := by unfold setChannelOutput; split <;> simp
@[simp] theorem setChannelOutput_schedule (a : BusAddr) (c : Nat) (on off : Count) (s : State) :
    (setChannelOutput a c on off s).schedule = s.schedule := by unfold setChannelOutput; split <;> simp

theorem setChannelOutput_bus (a : BusAddr) (c : Nat) (on off : Count) (s : State) :
    (setChannelOutput a c on off s).bus =
      if 16 ≤ c then s.bus else s.bus ++ [.write a (chanReg s.params c :: countBytes on off)] := by
  unfold setChannelOutput; split <;> simp

theorem setChannelOutput_wf (a : BusAddr) (c : Nat) (on off : Count) (s : State) (h : Memory.wf s.chip = true) :
    Memory.wf (setChannelOutput a c on off s).chip = true := by
  unfold setChannelOutput; split
  · exact h
  · exact busWrite_wf _ _ _ h

theorem countBytes_eq (on off : Count) : countBytes on off = [BitVec.ofNat 8 (on.toNat % 256), BitVec.ofNat 8 (on.toNat / 256),
    BitVec.ofNat 8 (off.toNat % 256), BitVec.ofNat 8 (off.toNat / 256)] := by
  simp only [countBytes, le2, List.cons_append, List.nil_append, List.cons.injEq, and_true]
  refine ⟨?_, ?_, ?_, ?_⟩ <;> apply BitVec.eq_of_toNat_eq <;> simp [lo8, hi8, Nat.shiftRight_eq_div_pow]

/-! ### The programming sequence (R112) -/

@[simp] theorem programFrequency_params (a : BusAddr) (f : Nat) (p : Byte) (s : State) :
    (programFrequency a f p s).params = s.params := by simp [programFrequency, writeRegister, readRegister, wait]
@[simp] theorem programFrequency_cycleDue (a : BusAddr) (f : Nat) (p : Byte) (s : State) :
    (programFrequency a f p s).cycleDue = s.cycleDue := by simp [programFrequency, writeRegister, readRegister, wait]
@[simp] theorem programFrequency_phase (a : BusAddr) (f : Nat) (p : Byte) (s : State) :
    (programFrequency a f p s).phase = s.phase := by simp [programFrequency, writeRegister, readRegister, wait]
@[simp] theorem programFrequency_cache (a : BusAddr) (f : Nat) (p : Byte) (s : State) :
    (programFrequency a f p s).cache = s.cache := by simp [programFrequency, writeRegister, readRegister, wait]
@[simp] theorem programFrequency_faults (a : BusAddr) (f : Nat) (p : Byte) (s : State) :
    (programFrequency a f p s).faults = s.faults := by simp [programFrequency, writeRegister, readRegister, wait]
@[simp] theorem programFrequency_refused (a : BusAddr) (f : Nat) (p : Byte) (s : State) :
    (programFrequency a f p s).refused = s.refused := by simp [programFrequency, writeRegister, readRegister, wait]
@[simp] theorem programFrequency_runState (a : BusAddr) (f : Nat) (p : Byte) (s : State) :
    (programFrequency a f p s).runState = s.runState := by simp [programFrequency, writeRegister, readRegister, wait]
@[simp] theorem programFrequency_errorCode (a : BusAddr) (f : Nat) (p : Byte) (s : State) :
    (programFrequency a f p s).errorCode = s.errorCode := by simp [programFrequency, writeRegister, readRegister, wait]
@[simp] theorem programFrequency_desired (a : BusAddr) (f : Nat) (p : Byte) (s : State) :
    (programFrequency a f p s).desired = s.desired := by simp [programFrequency, writeRegister, readRegister, wait]
@[simp] theorem programFrequency_nodeId (a : BusAddr) (f : Nat) (p : Byte) (s : State) :
    (programFrequency a f p s).nodeId = s.nodeId := by simp [programFrequency, writeRegister, readRegister, wait]
@[simp] theorem programFrequency_timerCompare (a : BusAddr) (f : Nat) (p : Byte) (s : State) :
    (programFrequency a f p s).timerCompare = s.timerCompare := by simp [programFrequency, writeRegister, readRegister, wait]
@[simp] theorem programFrequency_returned (a : BusAddr) (f : Nat) (p : Byte) (s : State) :
    (programFrequency a f p s).returned = s.returned := by simp [programFrequency, writeRegister, readRegister, wait]
@[simp] theorem programFrequency_schedule (a : BusAddr) (f : Nat) (p : Byte) (s : State) :
    (programFrequency a f p s).schedule = s.schedule := by simp [programFrequency, writeRegister, readRegister, wait]
@[simp] theorem programFrequency_ctrl (a : BusAddr) (f : Nat) (p : Byte) (s : State) :
    (programFrequency a f p s).ctrl = ⟨s.ctrl.busAddress, some f, some p⟩ := by
  simp [programFrequency, writeRegister, readRegister, wait]

theorem programFrequency_bus (a : BusAddr) (f : Nat) (p : Byte) (s : State) :
    (programFrequency a f p s).bus = s.bus ++ programmingEvents s.params a s.drawByte.1 p := by
  simp [programFrequency, writeRegister, readRegister, wait, programmingEvents, modeAsleep, modeRestarted, Config.sleepBit,
    Config.aiRestart, Config.oscWaitMs]

/-- A single-register write leaves every other register of the chip alone. -/
theorem busWrite_read_other (a : BusAddr) (r v : Byte) (s : State) {q : Nat} (h : q ≠ r.toNat) :
    Memory.read (busWrite a [r, v] s).chip q = Memory.read s.chip q := by
  have he := busWrite_effect a r [v] s
  unfold WriteEffect at he
  split at he
  · exact he.1 q (by simp only [List.length_singleton]; omega)
  · rw [he]

theorem programFrequency_chip_other (a : BusAddr) (f : Nat) (p : Byte) (s : State) {q : Nat} (hm : q ≠ s.params.mode.toNat)
    (hp : q ≠ s.params.prescale.toNat) : Memory.read (programFrequency a f p s).chip q = Memory.read s.chip q := by
  simp [programFrequency, writeRegister, readRegister, wait, busWrite_read_other, hm, hp]

theorem busWrite_chip_elsewhere {a : BusAddr} (bs : List Byte) {s : State} (h : a ≠ s.params.chip) :
    (busWrite a bs s).chip = s.chip := by
  cases bs with
  | nil => rfl
  | cons r ds => simpa [WriteEffect, h] using busWrite_effect a r ds s

theorem programFrequency_chip_elsewhere {a : BusAddr} (f : Nat) (p : Byte) {s : State} (h : a ≠ s.params.chip) :
    (programFrequency a f p s).chip = s.chip := by
  simp [programFrequency, writeRegister, readRegister, wait, busWrite_chip_elsewhere, h]

theorem programFrequency_wf (a : BusAddr) (f : Nat) (p : Byte) (s : State) (h : Memory.wf s.chip = true) :
    Memory.wf (programFrequency a f p s).chip = true := by
  simp only [programFrequency, writeRegister, readRegister, wait, State.setController_chip]
  exact busWrite_wf _ _ _ (busWrite_wf _ _ _ (busWrite_wf _ _ _ (busWrite_wf _ _ _ (by simpa using h))))

/-- When `setFrequency` goes through, and with what. -/
theorem setFrequency_ok {a : BusAddr} {f : Nat} {s t : State} (h : setFrequency a f s = .ok t) :
    s.phase = .startup ∧ s.ctrl.prescale = none ∧ ∃ p, prescaleOf f = .ok p ∧ t = programFrequency a f p s := by
  unfold setFrequency at h
  split at h
  · cases h
  · rename_i hn
    simp only [not_or, not_not] at hn
    split at h
    · cases h
    · rename_i p hp
      exact ⟨hn.1, hn.2, p, hp, (Except.ok.inj h).symm⟩

theorem setFrequency_refused {a : BusAddr} {f : Nat} {s : State} (h : s.phase ≠ .startup ∨ s.ctrl.prescale ≠ none) :
    setFrequency a f s = .error .runtimeFrequencyChange := by simp [setFrequency, h]

theorem setFrequency_admitted {a : BusAddr} {f : Nat} {p : Byte} {s : State} (h : s.phase = .startup)
    (h' : s.ctrl.prescale = none) (hp : prescaleOf f = .ok p) : setFrequency a f s = .ok (programFrequency a f p s) := by
  simp [setFrequency, h, h', hp]

end Sys2Proof.Machine
end

