-- ==== Sys2Proof/Laws/Policy.lean ====
section
/-!
SUPPORT. What one policy evaluation can do (spec/41_failsafe_policy.md), said channel by channel and then for the whole loop over
the channels.
-/

namespace Sys2Proof.Machine

/-! ### One channel -/

theorem gate_same {i : Fin 32} {t : Pair} {s : State} (h : t = s.cache[i.val]) : gate i t s = s := by simp [gate, h]

theorem gate_change {i : Fin 32} {t : Pair} {s : State} (h : t ≠ s.cache[i.val]) :
    gate i t s = (setChannelOutput s.ctrl.busAddress i.val t.on t.off s).setCache i t := by simp [gate, h]

@[simp] theorem gate_params (i : Fin 32) (t : Pair) (s : State) : (gate i t s).params = s.params := by unfold gate; split <;> simp
@[simp] theorem gate_phase (i : Fin 32) (t : Pair) (s : State) : (gate i t s).phase = s.phase := by unfold gate; split <;> simp
@[simp] theorem gate_ctrl (i : Fin 32) (t : Pair) (s : State) : (gate i t s).ctrl = s.ctrl := by unfold gate; split <;> simp
@[simp] theorem gate_faults (i : Fin 32) (t : Pair) (s : State) : (gate i t s).faults = s.faults := by unfold gate; split <;> simp
@[simp] theorem gate_refused (i : Fin 32) (t : Pair) (s : State) : (gate i t s).refused = s.refused := by unfold gate; split <;> simp
@[simp] theorem gate_runState (i : Fin 32) (t : Pair) (s : State) : (gate i t s).runState = s.runState := by unfold gate; split <;> simp
@[simp] theorem gate_errorCode (i : Fin 32) (t : Pair) (s : State) : (gate i t s).errorCode = s.errorCode := by unfold gate; split <;> simp
@[simp] theorem gate_desired (i : Fin 32) (t : Pair) (s : State) : (gate i t s).desired = s.desired := by unfold gate; split <;> simp
@[simp] theorem gate_nodeId (i : Fin 32) (t : Pair) (s : State) : (gate i t s).nodeId = s.nodeId := by unfold gate; split <;> simp
@[simp] theorem gate_timerCompare (i : Fin 32) (t : Pair) (s : State) : (gate i t s).timerCompare = s.timerCompare := by unfold gate; split <;> simp
@[simp] theorem gate_returned (i : Fin 32) (t : Pair) (s : State) : (gate i t s).returned = s.returned := by unfold gate; split <;> simp
@[simp] theorem gate_schedule (i : Fin 32) (t : Pair) (s : State) : (gate i t s).schedule = s.schedule := by unfold gate; split <;> simp
@[simp] theorem gate_cycleDue (i : Fin 32) (t : Pair) (s : State) : (gate i t s).cycleDue = s.cycleDue := by unfold gate; split <;> simp

@[simp] theorem policyChannel_params (en : Bool) (s : State) (i : Fin 32) : (policyChannel en s i).params = s.params := by
  unfold policyChannel; split <;> simp
@[simp] theorem policyChannel_phase (en : Bool) (s : State) (i : Fin 32) : (policyChannel en s i).phase = s.phase := by
  unfold policyChannel; split <;> simp
@[simp] theorem policyChannel_ctrl (en : Bool) (s : State) (i : Fin 32) : (policyChannel en s i).ctrl = s.ctrl := by
  unfold policyChannel; split <;> simp
@[simp] theorem policyChannel_faults (en : Bool) (s : State) (i : Fin 32) : (policyChannel en s i).faults = s.faults := by
  unfold policyChannel; split <;> simp
@[simp] theorem policyChannel_refused (en : Bool) (s : State) (i : Fin 32) : (policyChannel en s i).refused = s.refused := by
  unfold policyChannel; split <;> simp
@[simp] theorem policyChannel_runState (en : Bool) (s : State) (i : Fin 32) : (policyChannel en s i).runState = s.runState := by
  unfold policyChannel; split <;> simp
@[simp] theorem policyChannel_errorCode (en : Bool) (s : State) (i : Fin 32) : (policyChannel en s i).errorCode = s.errorCode := by
  unfold policyChannel; split <;> simp
@[simp] theorem policyChannel_desired (en : Bool) (s : State) (i : Fin 32) : (policyChannel en s i).desired = s.desired := by
  unfold policyChannel; split <;> simp
@[simp] theorem policyChannel_nodeId (en : Bool) (s : State) (i : Fin 32) : (policyChannel en s i).nodeId = s.nodeId := by
  unfold policyChannel; split <;> simp
@[simp] theorem policyChannel_timerCompare (en : Bool) (s : State) (i : Fin 32) : (policyChannel en s i).timerCompare = s.timerCompare := by
  unfold policyChannel; split <;> simp
@[simp] theorem policyChannel_returned (en : Bool) (s : State) (i : Fin 32) : (policyChannel en s i).returned = s.returned := by
  unfold policyChannel; split <;> simp
@[simp] theorem policyChannel_schedule (en : Bool) (s : State) (i : Fin 32) : (policyChannel en s i).schedule = s.schedule := by
  unfold policyChannel; split <;> simp
@[simp] theorem policyChannel_cycleDue (en : Bool) (s : State) (i : Fin 32) : (policyChannel en s i).cycleDue = s.cycleDue := by
  unfold policyChannel; split <;> simp

theorem policyChannel_unwired {i : Fin 32} (h : 16 ≤ i.val) (en : Bool) (s : State) : policyChannel en s i = s := by
  simp [policyChannel, Config.nWired, h]

theorem policyChannel_wired {i : Fin 32} (h : i.val < 16) (en : Bool) (s : State) :
    policyChannel en s i = gate i (targetOf en s.desired[i.val]) s := by
  simp [policyChannel, Config.nWired, Nat.not_le.2 h, readDesired]

theorem gate_cache (i : Fin 32) (t : Pair) (s : State) (j : Fin 32) :
    (gate i t s).cache[j.val] = if j = i then t else s.cache[j.val] := by
  unfold gate
  split
  · rename_i h
    split
    · rename_i hj; subst hj; exact h.symm
    · rfl
  · simp only [State.setCache_cache, setChannelOutput_cache, Vector.getElem_set]
    by_cases h : j = i
    · simp [h]
    · simp [h, Ne.symm (Fin.val_ne_of_ne h)]

theorem policyChannel_cache (en : Bool) (s : State) (i j : Fin 32) :
    (policyChannel en s i).cache[j.val] = if j = i ∧ j.val < 16 then targetOf en s.desired[j.val] else s.cache[j.val] := by
  by_cases hi : i.val < 16
  · rw [policyChannel_wired hi, gate_cache]
    by_cases h : j = i
    · subst h; simp [hi]
    · simp [h]
  · rw [policyChannel_unwired (Nat.le_of_not_lt hi)]
    have : ¬ (j = i ∧ j.val < 16) := fun h => hi (h.1 ▸ h.2)
    simp [this]

/-- The event a channel puts on the bus, if any. -/
theorem policyChannel_bus (en : Bool) (s : State) (i : Fin 32) :
    (policyChannel en s i).bus = s.bus ++
      if i.val < 16 ∧ targetOf en s.desired[i.val] ≠ s.cache[i.val] then
        [.write s.ctrl.busAddress (chanReg s.params i.val ::
          countBytes (targetOf en s.desired[i.val]).on (targetOf en s.desired[i.val]).off)] else [] := by
  by_cases hi : i.val < 16
  · rw [policyChannel_wired hi]
    by_cases h : targetOf en s.desired[i.val] = s.cache[i.val]
    · rw [gate_same h]; simp [h]
    · rw [gate_change h, State.setCache_bus, setChannelOutput_wired hi, busWrite_bus]
      simp [hi, h]
  · rw [policyChannel_unwired (Nat.le_of_not_lt hi)]; simp [hi]

theorem gate_wf (i : Fin 32) (t : Pair) (s : State) (h : Memory.wf s.chip = true) : Memory.wf (gate i t s).chip = true := by
  unfold gate; split
  · exact h
  · exact setChannelOutput_wf _ _ _ _ _ h

theorem policyChannel_wf (en : Bool) (s : State) (i : Fin 32) (h : Memory.wf s.chip = true) :
    Memory.wf (policyChannel en s i).chip = true := by
  unfold policyChannel; split
  · exact h
  · exact gate_wf _ _ _ h

/-- At the chip a channel can change only its own four registers, and only when it emits. -/
theorem policyChannel_chip (en : Bool) (s : State) (i : Fin 32) {q : Nat}
    (h : i.val < 16 → targetOf en s.desired[i.val] ≠ s.cache[i.val] →
      q < (chanReg s.params i.val).toNat ∨ (chanReg s.params i.val).toNat + 4 ≤ q) :
    Memory.read (policyChannel en s i).chip q = Memory.read s.chip q := by
  by_cases hi : i.val < 16
  · rw [policyChannel_wired hi]
    by_cases ht : targetOf en s.desired[i.val] = s.cache[i.val]
    · rw [gate_same ht]
    · rw [gate_change ht, State.setCache_chip, setChannelOutput_wired hi]
      have he := busWrite_effect s.ctrl.busAddress (chanReg s.params i.val)
        (countBytes (targetOf en s.desired[i.val]).on (targetOf en s.desired[i.val]).off) s
      unfold WriteEffect at he
      split at he
      · exact he.1 q (h hi ht)
      · rw [he]
  · rw [policyChannel_unwired (Nat.le_of_not_lt hi)]

/-! ### The whole evaluation -/

/-- The loop over any list of channels. -/
def policyLoop (en : Bool) (is : List (Fin 32)) (s : State) : State := is.foldl (policyChannel en) s

theorem policyEval_eq_policyLoop (s : State) :
    policyEval s = policyLoop (enabled s.runState s.errorCode) (List.finRange 32) s := by
  unfold policyEval; rfl

theorem policyLoop_cons (en : Bool) (i : Fin 32) (is : List (Fin 32)) (s : State) :
    policyLoop en (i :: is) s = policyLoop en is (policyChannel en s i) := rfl

@[simp] theorem policyLoop_params (en : Bool) (is : List (Fin 32)) (s : State) : (policyLoop en is s).params = s.params := by
  induction is generalizing s with
  | nil => rfl
  | cons i is ih => rw [policyLoop_cons, ih]; simp
@[simp] theorem policyLoop_phase (en : Bool) (is : List (Fin 32)) (s : State) : (policyLoop en is s).phase = s.phase := by
  induction is generalizing s with
  | nil => rfl
  | cons i is ih => rw [policyLoop_cons, ih]; simp
@[simp] theorem policyLoop_ctrl (en : Bool) (is : List (Fin 32)) (s : State) : (policyLoop en is s).ctrl = s.ctrl := by
  induction is generalizing s with
  | nil => rfl
  | cons i is ih => rw [policyLoop_cons, ih]; simp
@[simp] theorem policyLoop_faults (en : Bool) (is : List (Fin 32)) (s : State) : (policyLoop en is s).faults = s.faults := by
  induction is generalizing s with
  | nil => rfl
  | cons i is ih => rw [policyLoop_cons, ih]; simp
@[simp] theorem policyLoop_refused (en : Bool) (is : List (Fin 32)) (s : State) : (policyLoop en is s).refused = s.refused := by
  induction is generalizing s with
  | nil => rfl
  | cons i is ih => rw [policyLoop_cons, ih]; simp
@[simp] theorem policyLoop_runState (en : Bool) (is : List (Fin 32)) (s : State) : (policyLoop en is s).runState = s.runState := by
  induction is generalizing s with
  | nil => rfl
  | cons i is ih => rw [policyLoop_cons, ih]; simp
@[simp] theorem policyLoop_errorCode (en : Bool) (is : List (Fin 32)) (s : State) : (policyLoop en is s).errorCode = s.errorCode := by
  induction is generalizing s with
  | nil => rfl
  | cons i is ih => rw [policyLoop_cons, ih]; simp
@[simp] theorem policyLoop_desired (en : Bool) (is : List (Fin 32)) (s : State) : (policyLoop en is s).desired = s.desired := by
  induction is generalizing s with
  | nil => rfl
  | cons i is ih => rw [policyLoop_cons, ih]; simp
@[simp] theorem policyLoop_nodeId (en : Bool) (is : List (Fin 32)) (s : State) : (policyLoop en is s).nodeId = s.nodeId := by
  induction is generalizing s with
  | nil => rfl
  | cons i is ih => rw [policyLoop_cons, ih]; simp
@[simp] theorem policyLoop_timerCompare (en : Bool) (is : List (Fin 32)) (s : State) : (policyLoop en is s).timerCompare = s.timerCompare := by
  induction is generalizing s with
  | nil => rfl
  | cons i is ih => rw [policyLoop_cons, ih]; simp
@[simp] theorem policyLoop_returned (en : Bool) (is : List (Fin 32)) (s : State) : (policyLoop en is s).returned = s.returned := by
  induction is generalizing s with
  | nil => rfl
  | cons i is ih => rw [policyLoop_cons, ih]; simp
@[simp] theorem policyLoop_schedule (en : Bool) (is : List (Fin 32)) (s : State) : (policyLoop en is s).schedule = s.schedule := by
  induction is generalizing s with
  | nil => rfl
  | cons i is ih => rw [policyLoop_cons, ih]; simp
@[simp] theorem policyLoop_cycleDue (en : Bool) (is : List (Fin 32)) (s : State) : (policyLoop en is s).cycleDue = s.cycleDue := by
  induction is generalizing s with
  | nil => rfl
  | cons i is ih => rw [policyLoop_cons, ih]; simp

@[simp] theorem policyEval_params (s : State) : (policyEval s).params = s.params := by simp [policyEval_eq_policyLoop]
@[simp] theorem policyEval_phase (s : State) : (policyEval s).phase = s.phase := by simp [policyEval_eq_policyLoop]
@[simp] theorem policyEval_ctrl (s : State) : (policyEval s).ctrl = s.ctrl := by simp [policyEval_eq_policyLoop]
@[simp] theorem policyEval_faults (s : State) : (policyEval s).faults = s.faults := by simp [policyEval_eq_policyLoop]
@[simp] theorem policyEval_refused (s : State) : (policyEval s).refused = s.refused := by simp [policyEval_eq_policyLoop]
@[simp] theorem policyEval_runState (s : State) : (policyEval s).runState = s.runState := by simp [policyEval_eq_policyLoop]
@[simp] theorem policyEval_errorCode (s : State) : (policyEval s).errorCode = s.errorCode := by simp [policyEval_eq_policyLoop]
@[simp] theorem policyEval_desired (s : State) : (policyEval s).desired = s.desired := by simp [policyEval_eq_policyLoop]
@[simp] theorem policyEval_nodeId (s : State) : (policyEval s).nodeId = s.nodeId := by simp [policyEval_eq_policyLoop]
@[simp] theorem policyEval_timerCompare (s : State) : (policyEval s).timerCompare = s.timerCompare := by simp [policyEval_eq_policyLoop]
@[simp] theorem policyEval_returned (s : State) : (policyEval s).returned = s.returned := by simp [policyEval_eq_policyLoop]
@[simp] theorem policyEval_schedule (s : State) : (policyEval s).schedule = s.schedule := by simp [policyEval_eq_policyLoop]
@[simp] theorem policyEval_cycleDue (s : State) : (policyEval s).cycleDue = s.cycleDue := by simp [policyEval_eq_policyLoop]

theorem policyLoop_cache (en : Bool) (is : List (Fin 32)) (s : State) (j : Fin 32) :
    (policyLoop en is s).cache[j.val] = if j ∈ is ∧ j.val < 16 then targetOf en s.desired[j.val] else s.cache[j.val] := by
  induction is generalizing s with
  | nil => simp [policyLoop]
  | cons i is ih =>
    rw [policyLoop_cons, ih, policyChannel_cache, policyChannel_desired]
    by_cases hi : j = i
    · subst hi; by_cases hj : j.val < 16 <;> simp [hj]
    · by_cases hj : j.val < 16 <;> by_cases hm : j ∈ is <;> simp [hj, hm, hi]

theorem policyEval_cache (s : State) (j : Fin 32) :
    (policyEval s).cache[j.val] =
      if j.val < 16 then targetOf (enabled s.runState s.errorCode) s.desired[j.val] else s.cache[j.val] := by
  rw [policyEval_eq_policyLoop, policyLoop_cache]; simp [List.mem_finRange]

/-- Over a list without repeats each channel emits by the cache the loop began with. -/
theorem policyLoop_bus (en : Bool) {is : List (Fin 32)} (hn : is.Nodup) (s : State) :
    (policyLoop en is s).bus = s.bus ++ is.filterMap fun i =>
      if i.val < 16 ∧ targetOf en s.desired[i.val] ≠ s.cache[i.val] then
        some (.write s.ctrl.busAddress (chanReg s.params i.val ::
          countBytes (targetOf en s.desired[i.val]).on (targetOf en s.desired[i.val]).off)) else none := by
  induction is generalizing s with
  | nil => simp [policyLoop]
  | cons i is ih =>
    obtain ⟨hi, hn⟩ := List.nodup_cons.1 hn
    rw [policyLoop_cons, ih hn, policyChannel_bus, List.filterMap_cons]
    have hrest : ∀ j ∈ is, (policyChannel en s i).cache[j.val] = s.cache[j.val] := by
      intro j hj
      have : j ≠ i := fun h => hi (h ▸ hj)
      rw [policyChannel_cache]; simp [this]
    rw [List.filterMap_congr (g := fun j => if j.val < 16 ∧ targetOf en s.desired[j.val] ≠ s.cache[j.val] then
        some (BusEvent.write s.ctrl.busAddress (chanReg s.params j.val ::
          countBytes (targetOf en s.desired[j.val]).on (targetOf en s.desired[j.val]).off)) else none)
      (fun j hj => by
        simp only [policyChannel_desired, policyChannel_ctrl, policyChannel_params, hrest j hj])]
    by_cases hc : i.val < 16 ∧ targetOf en s.desired[i.val] ≠ s.cache[i.val] <;> simp [hc]

theorem policyEval_bus (s : State) :
    (policyEval s).bus = s.bus ++ (List.finRange 32).filterMap fun i =>
      if i.val < 16 ∧ targetOf (enabled s.runState s.errorCode) s.desired[i.val] ≠ s.cache[i.val] then
        some (.write s.ctrl.busAddress (chanReg s.params i.val ::
          countBytes (targetOf (enabled s.runState s.errorCode) s.desired[i.val]).on
            (targetOf (enabled s.runState s.errorCode) s.desired[i.val]).off)) else none := by
  rw [policyEval_eq_policyLoop, policyLoop_bus _ (List.nodup_finRange 32)]

theorem policyLoop_chip (en : Bool) (is : List (Fin 32)) (s : State) {q : Nat} (hn : is.Nodup)
    (h : ∀ i ∈ is, i.val < 16 → targetOf en s.desired[i.val] ≠ s.cache[i.val] →
      q < (chanReg s.params i.val).toNat ∨ (chanReg s.params i.val).toNat + 4 ≤ q) :
    Memory.read (policyLoop en is s).chip q = Memory.read s.chip q := by
  induction is generalizing s with
  | nil => rfl
  | cons i is ih =>
    obtain ⟨hi, hn⟩ := List.nodup_cons.1 hn
    rw [policyLoop_cons, ih _ hn]
    · exact policyChannel_chip en s i (h i List.mem_cons_self)
    · intro j hj hw ht
      have hne : j ≠ i := fun e => hi (e ▸ hj)
      rw [policyChannel_desired, policyChannel_cache] at ht
      rw [policyChannel_params]
      exact h j (List.mem_cons_of_mem _ hj) hw (by simpa [hne] using ht)

theorem policyLoop_wf (en : Bool) (is : List (Fin 32)) (s : State) (h : Memory.wf s.chip = true) :
    Memory.wf (policyLoop en is s).chip = true := by
  induction is generalizing s with
  | nil => exact h
  | cons i is ih => exact ih _ (policyChannel_wf en s i h)

/-- Where every wired pair already equals its target, the loop changes nothing at all. -/
theorem policyLoop_unchanged (en : Bool) (is : List (Fin 32)) (s : State)
    (h : ∀ i ∈ is, i.val < 16 → targetOf en s.desired[i.val] = s.cache[i.val]) : policyLoop en is s = s := by
  induction is generalizing s with
  | nil => rfl
  | cons i is ih =>
    have hi : policyChannel en s i = s := by
      by_cases hw : i.val < 16
      · rw [policyChannel_wired hw, gate_same (h i List.mem_cons_self hw)]
      · exact policyChannel_unwired (Nat.le_of_not_lt hw) en s
    rw [policyLoop_cons, hi]
    exact ih s fun j hj => h j (List.mem_cons_of_mem _ hj)

end Sys2Proof.Machine
end

