-- ==== Sys2Proof/Laws/Scheduler.lean ====
section
/-!
SUPPORT. What the main-loop steps, the end of startup and a read transaction leave in each field of the state: one lemma per field per
operation, so that no later proof unfolds one of them.
-/

namespace Sys2Proof.Machine

/-! ### `busReadReturning` -/

@[simp] theorem busReadReturning_params (a : BusAddr) (r v : Byte) (s : State) : (busReadReturning a r v s).params = s.params := rfl
@[simp] theorem busReadReturning_cycleDue (a : BusAddr) (r v : Byte) (s : State) : (busReadReturning a r v s).cycleDue = s.cycleDue := rfl
@[simp] theorem busReadReturning_phase (a : BusAddr) (r v : Byte) (s : State) : (busReadReturning a r v s).phase = s.phase := rfl
@[simp] theorem busReadReturning_cache (a : BusAddr) (r v : Byte) (s : State) : (busReadReturning a r v s).cache = s.cache := rfl
@[simp] theorem busReadReturning_ctrl (a : BusAddr) (r v : Byte) (s : State) : (busReadReturning a r v s).ctrl = s.ctrl := rfl
@[simp] theorem busReadReturning_bus (a : BusAddr) (r v : Byte) (s : State) : (busReadReturning a r v s).bus = s.bus ++ [.read a r v] := rfl
@[simp] theorem busReadReturning_faults (a : BusAddr) (r v : Byte) (s : State) : (busReadReturning a r v s).faults = s.faults := rfl
@[simp] theorem busReadReturning_refused (a : BusAddr) (r v : Byte) (s : State) : (busReadReturning a r v s).refused = s.refused := rfl
@[simp] theorem busReadReturning_runState (a : BusAddr) (r v : Byte) (s : State) : (busReadReturning a r v s).runState = s.runState := rfl
@[simp] theorem busReadReturning_errorCode (a : BusAddr) (r v : Byte) (s : State) : (busReadReturning a r v s).errorCode = s.errorCode := rfl
@[simp] theorem busReadReturning_desired (a : BusAddr) (r v : Byte) (s : State) : (busReadReturning a r v s).desired = s.desired := rfl
@[simp] theorem busReadReturning_nodeId (a : BusAddr) (r v : Byte) (s : State) : (busReadReturning a r v s).nodeId = s.nodeId := rfl
@[simp] theorem busReadReturning_chip (a : BusAddr) (r v : Byte) (s : State) : (busReadReturning a r v s).chip = s.chip := rfl
@[simp] theorem busReadReturning_timerCompare (a : BusAddr) (r v : Byte) (s : State) : (busReadReturning a r v s).timerCompare = s.timerCompare := rfl
@[simp] theorem busReadReturning_returned (a : BusAddr) (r v : Byte) (s : State) : (busReadReturning a r v s).returned = s.returned := rfl
@[simp] theorem busReadReturning_schedule (a : BusAddr) (r v : Byte) (s : State) : (busReadReturning a r v s).schedule = s.schedule := rfl
@[simp] theorem busReadReturning_oracle (a : BusAddr) (r v : Byte) (s : State) : (busReadReturning a r v s).oracle = s.oracle := rfl

/-! ### `loopTop` -/

@[simp] theorem loopTop_params (s : State) : (loopTop s).params = s.params := by unfold loopTop; split <;> rfl
@[simp] theorem loopTop_cycleDue (s : State) : (loopTop s).cycleDue = s.cycleDue := by unfold loopTop; split <;> rfl
@[simp] theorem loopTop_phase (s : State) : (loopTop s).phase = if s.cycleDue = true then .clear else .busCheck := by unfold loopTop; split <;> simp [*]
@[simp] theorem loopTop_cache (s : State) : (loopTop s).cache = s.cache := by unfold loopTop; split <;> rfl
@[simp] theorem loopTop_ctrl (s : State) : (loopTop s).ctrl = s.ctrl := by unfold loopTop; split <;> rfl
@[simp] theorem loopTop_bus (s : State) : (loopTop s).bus = s.bus := by unfold loopTop; split <;> rfl
@[simp] theorem loopTop_faults (s : State) : (loopTop s).faults = s.faults := by unfold loopTop; split <;> rfl
@[simp] theorem loopTop_refused (s : State) : (loopTop s).refused = s.refused := by unfold loopTop; split <;> rfl
@[simp] theorem loopTop_runState (s : State) : (loopTop s).runState = s.runState := by unfold loopTop; split <;> rfl
@[simp] theorem loopTop_errorCode (s : State) : (loopTop s).errorCode = s.errorCode := by unfold loopTop; split <;> rfl
@[simp] theorem loopTop_desired (s : State) : (loopTop s).desired = s.desired := by unfold loopTop; split <;> rfl
@[simp] theorem loopTop_nodeId (s : State) : (loopTop s).nodeId = s.nodeId := by unfold loopTop; split <;> rfl
@[simp] theorem loopTop_chip (s : State) : (loopTop s).chip = s.chip := by unfold loopTop; split <;> rfl
@[simp] theorem loopTop_timerCompare (s : State) : (loopTop s).timerCompare = s.timerCompare := by unfold loopTop; split <;> rfl
@[simp] theorem loopTop_returned (s : State) : (loopTop s).returned = s.returned := by unfold loopTop; split <;> rfl
@[simp] theorem loopTop_schedule (s : State) : (loopTop s).schedule = s.schedule := by unfold loopTop; split <;> rfl
@[simp] theorem loopTop_oracle (s : State) : (loopTop s).oracle = s.oracle := by unfold loopTop; split <;> rfl

/-! ### `loopClear` -/

@[simp] theorem loopClear_params (s : State) : (loopClear s).params = s.params := rfl
@[simp] theorem loopClear_cycleDue (s : State) : (loopClear s).cycleDue = false := rfl
@[simp] theorem loopClear_phase (s : State) : (loopClear s).phase = .policy := rfl
@[simp] theorem loopClear_cache (s : State) : (loopClear s).cache = s.cache := rfl
@[simp] theorem loopClear_ctrl (s : State) : (loopClear s).ctrl = s.ctrl := rfl
@[simp] theorem loopClear_bus (s : State) : (loopClear s).bus = s.bus := rfl
@[simp] theorem loopClear_faults (s : State) : (loopClear s).faults = s.faults := rfl
@[simp] theorem loopClear_refused (s : State) : (loopClear s).refused = s.refused := rfl
@[simp] theorem loopClear_runState (s : State) : (loopClear s).runState = s.runState := rfl
@[simp] theorem loopClear_errorCode (s : State) : (loopClear s).errorCode = s.errorCode := rfl
@[simp] theorem loopClear_desired (s : State) : (loopClear s).desired = s.desired := rfl
@[simp] theorem loopClear_nodeId (s : State) : (loopClear s).nodeId = s.nodeId := rfl
@[simp] theorem loopClear_chip (s : State) : (loopClear s).chip = s.chip := rfl
@[simp] theorem loopClear_timerCompare (s : State) : (loopClear s).timerCompare = s.timerCompare := rfl
@[simp] theorem loopClear_returned (s : State) : (loopClear s).returned = s.returned := rfl
@[simp] theorem loopClear_schedule (s : State) : (loopClear s).schedule = s.schedule := rfl
@[simp] theorem loopClear_oracle (s : State) : (loopClear s).oracle = s.oracle := rfl

/-! ### `loopPolicy` -/

@[simp] theorem loopPolicy_params (s : State) : (loopPolicy s).params = s.params := by simp [loopPolicy]
@[simp] theorem loopPolicy_cycleDue (s : State) : (loopPolicy s).cycleDue = s.cycleDue := by simp [loopPolicy]
@[simp] theorem loopPolicy_phase (s : State) : (loopPolicy s).phase = .busCheck := by simp [loopPolicy]
@[simp] theorem loopPolicy_cache (s : State) : (loopPolicy s).cache = (policyEval s).cache := by simp [loopPolicy]
@[simp] theorem loopPolicy_ctrl (s : State) : (loopPolicy s).ctrl = s.ctrl := by simp [loopPolicy]
@[simp] theorem loopPolicy_bus (s : State) : (loopPolicy s).bus = (policyEval s).bus := by simp [loopPolicy]
@[simp] theorem loopPolicy_faults (s : State) : (loopPolicy s).faults = s.faults := by simp [loopPolicy]
@[simp] theorem loopPolicy_refused (s : State) : (loopPolicy s).refused = s.refused := by simp [loopPolicy]
@[simp] theorem loopPolicy_runState (s : State) : (loopPolicy s).runState = s.runState := by simp [loopPolicy]
@[simp] theorem loopPolicy_errorCode (s : State) : (loopPolicy s).errorCode = s.errorCode := by simp [loopPolicy]
@[simp] theorem loopPolicy_desired (s : State) : (loopPolicy s).desired = s.desired := by simp [loopPolicy]
@[simp] theorem loopPolicy_nodeId (s : State) : (loopPolicy s).nodeId = s.nodeId := by simp [loopPolicy]
@[simp] theorem loopPolicy_chip (s : State) : (loopPolicy s).chip = (policyEval s).chip := by simp [loopPolicy]
@[simp] theorem loopPolicy_timerCompare (s : State) : (loopPolicy s).timerCompare = s.timerCompare := by simp [loopPolicy]
@[simp] theorem loopPolicy_returned (s : State) : (loopPolicy s).returned = s.returned := by simp [loopPolicy]
@[simp] theorem loopPolicy_schedule (s : State) : (loopPolicy s).schedule = s.schedule := by simp [loopPolicy]
@[simp] theorem loopPolicy_oracle (s : State) : (loopPolicy s).oracle = (policyEval s).oracle := by simp [loopPolicy]

/-! ### `loopBusCheck` -/

@[simp] theorem loopBusCheck_params (s : State) : (loopBusCheck s).params = s.params := by
  cases h : s.drawFrame.1 <;> simp [loopBusCheck, h]
@[simp] theorem loopBusCheck_cycleDue (s : State) : (loopBusCheck s).cycleDue = s.cycleDue := by
  cases h : s.drawFrame.1 <;> simp [loopBusCheck, h]
@[simp] theorem loopBusCheck_phase (s : State) : (loopBusCheck s).phase = (match s.drawFrame.1 with | some f => .dispatch f | none => .sleep) := by
  cases h : s.drawFrame.1 <;> simp [loopBusCheck, h]
@[simp] theorem loopBusCheck_cache (s : State) : (loopBusCheck s).cache = s.cache := by
  cases h : s.drawFrame.1 <;> simp [loopBusCheck, h]
@[simp] theorem loopBusCheck_ctrl (s : State) : (loopBusCheck s).ctrl = s.ctrl := by
  cases h : s.drawFrame.1 <;> simp [loopBusCheck, h]
@[simp] theorem loopBusCheck_bus (s : State) : (loopBusCheck s).bus = s.bus := by
  cases h : s.drawFrame.1 <;> simp [loopBusCheck, h]
@[simp] theorem loopBusCheck_faults (s : State) : (loopBusCheck s).faults = s.faults := by
  cases h : s.drawFrame.1 <;> simp [loopBusCheck, h]
@[simp] theorem loopBusCheck_refused (s : State) : (loopBusCheck s).refused = s.refused := by
  cases h : s.drawFrame.1 <;> simp [loopBusCheck, h]
@[simp] theorem loopBusCheck_runState (s : State) : (loopBusCheck s).runState = s.runState := by
  cases h : s.drawFrame.1 <;> simp [loopBusCheck, h]
@[simp] theorem loopBusCheck_errorCode (s : State) : (loopBusCheck s).errorCode = s.errorCode := by
  cases h : s.drawFrame.1 <;> simp [loopBusCheck, h]
@[simp] theorem loopBusCheck_desired (s : State) : (loopBusCheck s).desired = s.desired := by
  cases h : s.drawFrame.1 <;> simp [loopBusCheck, h]
@[simp] theorem loopBusCheck_nodeId (s : State) : (loopBusCheck s).nodeId = s.nodeId := by
  cases h : s.drawFrame.1 <;> simp [loopBusCheck, h]
@[simp] theorem loopBusCheck_chip (s : State) : (loopBusCheck s).chip = s.chip := by
  cases h : s.drawFrame.1 <;> simp [loopBusCheck, h]
@[simp] theorem loopBusCheck_timerCompare (s : State) : (loopBusCheck s).timerCompare = s.timerCompare := by
  cases h : s.drawFrame.1 <;> simp [loopBusCheck, h]
@[simp] theorem loopBusCheck_returned (s : State) : (loopBusCheck s).returned = s.returned := by
  cases h : s.drawFrame.1 <;> simp [loopBusCheck, h]
@[simp] theorem loopBusCheck_schedule (s : State) : (loopBusCheck s).schedule = s.schedule := by
  cases h : s.drawFrame.1 <;> simp [loopBusCheck, h]
@[simp] theorem loopBusCheck_oracle (s : State) : (loopBusCheck s).oracle = s.drawFrame.2.oracle := by
  cases h : s.drawFrame.1 <;> simp [loopBusCheck, h]

/-! ### `loopDispatch` -/

@[simp] theorem loopDispatch_params (f : Frame) (s : State) : (loopDispatch f s).params = s.params := by simp [loopDispatch]
@[simp] theorem loopDispatch_cycleDue (f : Frame) (s : State) : (loopDispatch f s).cycleDue = s.cycleDue := by simp [loopDispatch]
@[simp] theorem loopDispatch_phase (f : Frame) (s : State) : (loopDispatch f s).phase = .top := by simp [loopDispatch]
@[simp] theorem loopDispatch_cache (f : Frame) (s : State) : (loopDispatch f s).cache = s.cache := by simp [loopDispatch]
@[simp] theorem loopDispatch_ctrl (f : Frame) (s : State) : (loopDispatch f s).ctrl = s.ctrl := by simp [loopDispatch]
@[simp] theorem loopDispatch_bus (f : Frame) (s : State) : (loopDispatch f s).bus = s.bus := by simp [loopDispatch]
@[simp] theorem loopDispatch_faults (f : Frame) (s : State) : (loopDispatch f s).faults = s.faults := by simp [loopDispatch]
@[simp] theorem loopDispatch_refused (f : Frame) (s : State) : (loopDispatch f s).refused = s.refused := by simp [loopDispatch]
@[simp] theorem loopDispatch_nodeId (f : Frame) (s : State) : (loopDispatch f s).nodeId = s.nodeId := by simp [loopDispatch]
@[simp] theorem loopDispatch_chip (f : Frame) (s : State) : (loopDispatch f s).chip = s.chip := by simp [loopDispatch]
@[simp] theorem loopDispatch_timerCompare (f : Frame) (s : State) : (loopDispatch f s).timerCompare = s.timerCompare := by simp [loopDispatch]
@[simp] theorem loopDispatch_returned (f : Frame) (s : State) : (loopDispatch f s).returned = s.returned := by simp [loopDispatch]
@[simp] theorem loopDispatch_schedule (f : Frame) (s : State) : (loopDispatch f s).schedule = s.schedule := by simp [loopDispatch]

/-! ### `loopSleep` -/

@[simp] theorem loopSleep_params (s : State) : (loopSleep s).params = s.params := rfl
@[simp] theorem loopSleep_cycleDue (s : State) : (loopSleep s).cycleDue = s.cycleDue := rfl
@[simp] theorem loopSleep_phase (s : State) : (loopSleep s).phase = .top := rfl
@[simp] theorem loopSleep_cache (s : State) : (loopSleep s).cache = s.cache := rfl
@[simp] theorem loopSleep_ctrl (s : State) : (loopSleep s).ctrl = s.ctrl := rfl
@[simp] theorem loopSleep_bus (s : State) : (loopSleep s).bus = s.bus := rfl
@[simp] theorem loopSleep_faults (s : State) : (loopSleep s).faults = s.faults := rfl
@[simp] theorem loopSleep_refused (s : State) : (loopSleep s).refused = s.refused := rfl
@[simp] theorem loopSleep_runState (s : State) : (loopSleep s).runState = s.runState := rfl
@[simp] theorem loopSleep_errorCode (s : State) : (loopSleep s).errorCode = s.errorCode := rfl
@[simp] theorem loopSleep_desired (s : State) : (loopSleep s).desired = s.desired := rfl
@[simp] theorem loopSleep_nodeId (s : State) : (loopSleep s).nodeId = s.nodeId := rfl
@[simp] theorem loopSleep_chip (s : State) : (loopSleep s).chip = s.chip := rfl
@[simp] theorem loopSleep_timerCompare (s : State) : (loopSleep s).timerCompare = s.timerCompare := rfl
@[simp] theorem loopSleep_returned (s : State) : (loopSleep s).returned = s.returned := rfl
@[simp] theorem loopSleep_schedule (s : State) : (loopSleep s).schedule = s.schedule := rfl
@[simp] theorem loopSleep_oracle (s : State) : (loopSleep s).oracle = s.oracle := rfl

/-! ### `startupRest` -/

@[simp] theorem startupRest_params (s : State) : (startupRest s).params = s.params := by simp [startupRest]
@[simp] theorem startupRest_cycleDue (s : State) : (startupRest s).cycleDue = s.cycleDue := by simp [startupRest]
@[simp] theorem startupRest_phase (s : State) : (startupRest s).phase = .top := by simp [startupRest]
@[simp] theorem startupRest_cache (s : State) : (startupRest s).cache = s.cache := by simp [startupRest]
@[simp] theorem startupRest_ctrl (s : State) : (startupRest s).ctrl = s.ctrl := by simp [startupRest]
@[simp] theorem startupRest_bus (s : State) : (startupRest s).bus = s.bus := by simp [startupRest]
@[simp] theorem startupRest_faults (s : State) : (startupRest s).faults = s.faults := by simp [startupRest]
@[simp] theorem startupRest_refused (s : State) : (startupRest s).refused = s.refused := by simp [startupRest]
@[simp] theorem startupRest_runState (s : State) : (startupRest s).runState = s.params.initRunState := by simp [startupRest]
@[simp] theorem startupRest_nodeId (s : State) : (startupRest s).nodeId = s.params.nodeId := by simp [startupRest]
@[simp] theorem startupRest_chip (s : State) : (startupRest s).chip = s.chip := by simp [startupRest]
@[simp] theorem startupRest_timerCompare (s : State) : (startupRest s).timerCompare = timerCompareOf s.params := by simp [startupRest]
@[simp] theorem startupRest_returned (s : State) : (startupRest s).returned = s.returned := by simp [startupRest]
@[simp] theorem startupRest_schedule (s : State) : (startupRest s).schedule = s.schedule := by simp [startupRest]

/-! ### `ticksFall` -/

/-- Any number of ticks is one tick (R186): they collapse. -/
theorem ticksFall_eq (n : Nat) (s : State) : ticksFall n s = if n = 0 then s else s.raiseCycleDue := by
  induction n generalizing s with
  | zero => rfl
  | succ n ih =>
    rw [ticksFall, ih]
    split <;> rfl

@[simp] theorem ticksFall_cycleDue (n : Nat) (s : State) : (ticksFall n s).cycleDue = (s.cycleDue || n != 0) := by
  rw [ticksFall_eq]; split <;> simp [*]
@[simp] theorem ticksFall_params (n : Nat) (s : State) : (ticksFall n s).params = s.params := by rw [ticksFall_eq]; split <;> rfl
@[simp] theorem ticksFall_phase (n : Nat) (s : State) : (ticksFall n s).phase = s.phase := by rw [ticksFall_eq]; split <;> rfl
@[simp] theorem ticksFall_cache (n : Nat) (s : State) : (ticksFall n s).cache = s.cache := by rw [ticksFall_eq]; split <;> rfl
@[simp] theorem ticksFall_ctrl (n : Nat) (s : State) : (ticksFall n s).ctrl = s.ctrl := by rw [ticksFall_eq]; split <;> rfl
@[simp] theorem ticksFall_bus (n : Nat) (s : State) : (ticksFall n s).bus = s.bus := by rw [ticksFall_eq]; split <;> rfl
@[simp] theorem ticksFall_faults (n : Nat) (s : State) : (ticksFall n s).faults = s.faults := by rw [ticksFall_eq]; split <;> rfl
@[simp] theorem ticksFall_refused (n : Nat) (s : State) : (ticksFall n s).refused = s.refused := by rw [ticksFall_eq]; split <;> rfl
@[simp] theorem ticksFall_runState (n : Nat) (s : State) : (ticksFall n s).runState = s.runState := by rw [ticksFall_eq]; split <;> rfl
@[simp] theorem ticksFall_errorCode (n : Nat) (s : State) : (ticksFall n s).errorCode = s.errorCode := by rw [ticksFall_eq]; split <;> rfl
@[simp] theorem ticksFall_desired (n : Nat) (s : State) : (ticksFall n s).desired = s.desired := by rw [ticksFall_eq]; split <;> rfl
@[simp] theorem ticksFall_nodeId (n : Nat) (s : State) : (ticksFall n s).nodeId = s.nodeId := by rw [ticksFall_eq]; split <;> rfl
@[simp] theorem ticksFall_chip (n : Nat) (s : State) : (ticksFall n s).chip = s.chip := by rw [ticksFall_eq]; split <;> rfl
@[simp] theorem ticksFall_timerCompare (n : Nat) (s : State) : (ticksFall n s).timerCompare = s.timerCompare := by rw [ticksFall_eq]; split <;> rfl
@[simp] theorem ticksFall_returned (n : Nat) (s : State) : (ticksFall n s).returned = s.returned := by rw [ticksFall_eq]; split <;> rfl
@[simp] theorem ticksFall_schedule (n : Nat) (s : State) : (ticksFall n s).schedule = s.schedule := by rw [ticksFall_eq]; split <;> rfl
@[simp] theorem ticksFall_oracle (n : Nat) (s : State) : (ticksFall n s).oracle = s.oracle := by rw [ticksFall_eq]; split <;> rfl

end Sys2Proof.Machine
end

