-- ==== Sys2Proof/Laws/Exec.lean ====
section
/-!
SUPPORT. What an operation can do, said once for all eighteen (`Effect`, `exec_effect`), and what a step can do (`step_next`): the
invariants and the whole-machine rules are case analyses over these.
-/

namespace Sys2Proof.Machine

/-- The states an operation can lead to. -/
inductive Effect : Instr → State → State → Prop
  /-- An outcome of R202 is recorded for a caller's operation. -/
  | recorded (i : Instr) (s : State) (r : Reason) (hr : r ≠ .paramConstraint) (hi : issuer i = .caller) (hm : mayRecord i = true) :
      Effect i s (s.raise r (.operation i .caller))
  /-- Startup's frequency call is refused. -/
  | startupRecorded (s : State) (h : s.phase ≠ .startup ∨ s.ctrl.prescale ≠ none) :
      Effect .startup s (s.raise .runtimeFrequencyChange (.operation (startupCall s) .mainLoop))
  | prescale (f : Rat) (s : State) (v : Byte) : Effect (.computePrescale f) s (s.setReturned v)
  | frequency (a : Nat) (f : Rat) (s : State) (p : Byte) (hs : s.phase = .startup) (hn : s.ctrl.prescale = none)
      (hp : prescaleOf (naturalOf f) = .ok p) :
      Effect (.setFrequency a f) s (programFrequency (addressOf a) (naturalOf f) p s)
  | writeRegister (a r v : Nat) (s : State) : Effect (.writeRegister a r v) s (busWrite (addressOf a) [byteOf r, byteOf v] s)
  | setChannelOutput (a : Nat) (c : Rat) (on off : Nat) (s : State) :
      Effect (.setChannelOutput a c on off) s (setChannelOutput (addressOf a) (naturalOf c) (countOf on) (countOf off) s)
  | readRegister (a r : Nat) (s : State) :
      Effect (.readRegister a r) s ((busRead (addressOf a) (byteOf r) s).2.setReturned s.drawByte.1)
  | policyEval (s : State) : Effect .policyEval s (policyEval s)
  | timerTick (s : State) : Effect .timerTick s s.raiseCycleDue
  | loopTop (s : State) : Effect .loopTop s (loopTop s)
  | loopClear (s : State) : Effect .loopClear s (loopClear s)
  | loopPolicy (s : State) : Effect .loopPolicy s (loopPolicy s)
  | loopBusCheck (s : State) : Effect .loopBusCheck s (loopBusCheck s)
  | loopDispatch (f : Frame) (s : State) : Effect (.loopDispatch f) s (loopDispatch f s)
  | loopSleep (s : State) : Effect .loopSleep s (loopSleep s)
  | startup (s : State) (p : Byte) (hs : s.phase = .startup) (hn : s.ctrl.prescale = none)
      (hp : prescaleOf Config.targetFreqHz = .ok p) :
      Effect .startup s (startupRest (programFrequency s.params.chip Config.targetFreqHz p s))
  | busWriteReg (a : BusAddr) (r v : Byte) (s : State) : Effect (.busWriteReg a r v) s (busWrite a [r, v] s)
  | busChannelBurst (a : BusAddr) (r b1 b2 b3 b4 : Byte) (s : State) (hr : (channelOfReg s.params r).isSome = true) :
      Effect (.busChannelBurst a r b1 b2 b3 b4) s (busWrite a [r, b1, b2, b3, b4] s)
  | busPolicyBurst (a : BusAddr) (r b3 : Byte) (b4 : BitVec 4) (s : State) (hr : (channelOfReg s.params r).isSome = true) :
      Effect (.busPolicyBurst a r b3 b4) s (busWrite a [r, 0, 0, b3, b4.setWidth 8] s)
  | busReadReg (a : BusAddr) (r v : Byte) (s : State) :
      Effect (.busReadReg a r v) s ((busReadReturning a r v s).setReturned v)

theorem domainRefusal_ne_paramConstraint {i : Instr} {r : Reason} (h : domainRefusal i = some r) :
    r ≠ .paramConstraint ∧ issuer i = .caller ∧ mayRecord i = true := by
  have ha (a : Nat) : checkAddress a = none ∨ checkAddress a = some .addrRange := by unfold checkAddress; split <;> simp
  have hb (a : Nat) : checkByte a = none ∨ checkByte a = some .byteRange := by unfold checkByte; split <;> simp
  have hc (a : Nat) : checkCount a = none ∨ checkCount a = some .countRange := by unfold checkCount; split <;> simp
  have hn (q : Rat) : checkNatural q = none ∨ checkNatural q = some .operandType := by unfold checkNatural; split <;> simp
  cases i with
  | computePrescale f =>
    rcases hn f with e | e <;> simp_all [domainRefusal]
    subst h; exact ⟨by decide, rfl, rfl⟩
  | setFrequency a f =>
    rcases ha a with e | e <;> rcases hn f with e' | e' <;> simp_all [domainRefusal] <;> subst h <;> exact ⟨by decide, rfl, rfl⟩
  | writeRegister a b v =>
    rcases ha a with e | e <;> rcases hb b with e' | e' <;> rcases hb v with e'' | e'' <;> simp_all [domainRefusal] <;>
      subst h <;> exact ⟨by decide, rfl, rfl⟩
  | setChannelOutput a c on off =>
    rcases ha a with e | e <;> rcases hc on with e' | e' <;> rcases hc off with e'' | e'' <;> rcases hn c with f | f <;>
      simp_all [domainRefusal] <;> subst h <;> exact ⟨by decide, rfl, rfl⟩
  | readRegister a b =>
    rcases ha a with e | e <;> rcases hb b with e' | e' <;> simp_all [domainRefusal] <;> subst h <;> exact ⟨by decide, rfl, rfl⟩
  | _ => simp [domainRefusal] at h

theorem prescaleOf_error {f : Nat} {r : Reason} (h : prescaleOf f = .error r) : f = 0 ∧ r = .freqZero := by
  unfold prescaleOf at h
  split at h
  · rename_i hf; exact ⟨hf, (Except.error.inj h).symm⟩
  · cases h

theorem setFrequency_error {a : BusAddr} {f : Nat} {s : State} {r : Reason} (h : setFrequency a f s = .error r) :
    r = .runtimeFrequencyChange ∧ (s.phase ≠ .startup ∨ s.ctrl.prescale ≠ none) ∨ r = .freqZero ∧ f = 0 := by
  unfold setFrequency at h
  split at h
  · rename_i hc; exact .inl ⟨(Except.error.inj h).symm, hc⟩
  · split at h
    · rename_i r' hp
      obtain ⟨hf, hr⟩ := prescaleOf_error hp
      exact .inr ⟨(Except.error.inj h).symm.trans hr, hf⟩
    · cases h

/-- What a guarded operation can lead to: its refusal, or what it does inside its domain. -/
theorem guardDomain_next {i : Instr} {s t : State} {run : State → Host.Outcome State Fault Refusal}
    (h : guardDomain i .caller s run = .next t) : Effect i s t ∨ run s = .next t := by
  unfold guardDomain at h
  split at h
  · rename_i r hr
    obtain ⟨hp, hi, hm⟩ := domainRefusal_ne_paramConstraint hr
    cases h
    exact .inl (.recorded i s r hp hi hm)
  · exact .inr h

theorem burstFrame_next {a : BusAddr} {r : Byte} {ds : List Byte} {s t : State} (h : burstFrame a r ds s = .next t) :
    (channelOfReg s.params r).isSome = true ∧ t = busWrite a (r :: ds) s := by
  unfold burstFrame at h
  split at h
  · rename_i hr; cases h; exact ⟨hr, rfl⟩
  · cases h

/-- Every next state of every operation is one of `Effect`'s. -/
theorem exec_effect {i : Instr} {s t : State} (h : exec i s = .next t) : Effect i s t := by
  cases i with
  | computePrescale f =>
    simp only [exec, execComputePrescale] at h
    rcases guardDomain_next h with h | h
    · exact h
    · rw [Host.Outcome.next.injEq] at h; subst h
      cases hp : prescaleOf (naturalOf f) with
      | error r => exact .recorded _ s r (by rw [(prescaleOf_error hp).2]; decide) rfl rfl
      | ok p => exact .prescale f s p
  | setFrequency a f =>
    simp only [exec, execSetFrequency] at h
    rcases guardDomain_next h with h | h
    · exact h
    · rw [Host.Outcome.next.injEq] at h; subst h
      cases hf : setFrequency (addressOf a) (naturalOf f) s with
      | error r =>
        refine .recorded _ s r ?_ rfl rfl
        rcases setFrequency_error hf with ⟨rfl, _⟩ | ⟨rfl, _⟩ <;> decide
      | ok u =>
        obtain ⟨hs, hn, p, hp, rfl⟩ := setFrequency_ok hf
        exact .frequency a f s p hs hn hp
  | writeRegister a r v =>
    simp only [exec, execWriteRegister] at h
    rcases guardDomain_next h with h | h
    · exact h
    · rw [Host.Outcome.next.injEq] at h; subst h; exact .writeRegister a r v s
  | setChannelOutput a c on off =>
    simp only [exec, execSetChannelOutput] at h
    rcases guardDomain_next h with h | h
    · exact h
    · rw [Host.Outcome.next.injEq] at h; subst h; exact .setChannelOutput a c on off s
  | readRegister a r =>
    simp only [exec, execReadRegister] at h
    rcases guardDomain_next h with h | h
    · exact h
    · rw [Host.Outcome.next.injEq] at h; subst h; exact .readRegister a r s
  | startup =>
    simp only [exec, execStartup, Host.Outcome.next.injEq] at h
    subst h
    unfold startup
    cases hf : setFrequency s.params.chip Config.targetFreqHz s with
    | error r =>
      rcases setFrequency_error hf with ⟨rfl, hc⟩ | ⟨_, h0⟩
      · exact .startupRecorded s hc
      · exact absurd h0 (by decide)
    | ok u =>
      obtain ⟨hs, hn, p, hp, rfl⟩ := setFrequency_ok hf
      exact .startup s p hs hn hp
  | busChannelBurst a r b1 b2 b3 b4 =>
    simp only [exec, execBusChannelBurst] at h
    obtain ⟨hr, rfl⟩ := burstFrame_next h
    exact .busChannelBurst a r b1 b2 b3 b4 s hr
  | busPolicyBurst a r b3 b4 =>
    simp only [exec, execBusPolicyBurst] at h
    obtain ⟨hr, rfl⟩ := burstFrame_next h
    exact .busPolicyBurst a r b3 b4 s hr
  | policyEval =>
    simp only [exec, execPolicyEval, Host.Outcome.next.injEq] at h
    subst h; exact .policyEval s
  | timerTick =>
    simp only [exec, execTimerTick, Host.Outcome.next.injEq] at h
    subst h; exact .timerTick s
  | loopTop =>
    simp only [exec, execLoopTop, Host.Outcome.next.injEq] at h
    subst h; exact .loopTop s
  | loopClear =>
    simp only [exec, execLoopClear, Host.Outcome.next.injEq] at h
    subst h; exact .loopClear s
  | loopPolicy =>
    simp only [exec, execLoopPolicy, Host.Outcome.next.injEq] at h
    subst h; exact .loopPolicy s
  | loopBusCheck =>
    simp only [exec, execLoopBusCheck, Host.Outcome.next.injEq] at h
    subst h; exact .loopBusCheck s
  | loopDispatch f =>
    simp only [exec, execLoopDispatch, Host.Outcome.next.injEq] at h
    subst h; exact .loopDispatch f s
  | loopSleep =>
    simp only [exec, execLoopSleep, Host.Outcome.next.injEq] at h
    subst h; exact .loopSleep s
  | busWriteReg a r v =>
    simp only [exec, execBusWriteReg, Host.Outcome.next.injEq] at h
    subst h; exact .busWriteReg a r v s
  | busReadReg a r v =>
    simp only [exec, execBusReadReg, Host.Outcome.next.injEq] at h
    subst h; exact .busReadReg a r v s

/-- An operation with an operand outside its domain does nothing but record the refusal (R89, R203). -/
theorem exec_of_domainRefusal {i : Instr} {r : Reason} (h : domainRefusal i = some r) (s : State) :
    exec i s = .next (s.raise r (.operation i .caller)) := by
  cases i with
  | computePrescale f => rw [exec, execComputePrescale, guardDomain_some h]
  | setFrequency a f => rw [exec, execSetFrequency, guardDomain_some h]
  | writeRegister a b v => rw [exec, execWriteRegister, guardDomain_some h]
  | setChannelOutput a c on off => rw [exec, execSetChannelOutput, guardDomain_some h]
  | readRegister a b => rw [exec, execReadRegister, guardDomain_some h]
  | _ => simp [domainRefusal] at h

/-! ### Which operation runs -/

theorem admittedIn_operation (p : Phase) : admittedIn p.operation p = true := by cases p <;> simp [Phase.operation, admittedIn, issuePhase]

theorem issuer_operation (p : Phase) : issuer p.operation = .mainLoop := by cases p <;> rfl

theorem issue_run {i j : Instr} {s t : State} (h : issue i s = .run j t) :
    j = i ∧ t = s ∧ s.stopped (issuer i) = false ∧ admittedIn i s.phase = true := by
  unfold issue at h
  split at h
  · cases h
  · rename_i hs
    split at h
    · rename_i ha; cases h; exact ⟨rfl, rfl, by simpa using hs, ha⟩
    · cases h

theorem issue_admitted {i : Instr} {s : State} (hs : s.stopped (issuer i) = false) (ha : admittedIn i s.phase = true) :
    issue i s = .run i s := by simp [issue, hs, ha]

theorem issue_stopped {i : Instr} {s : State} (hs : s.stopped (issuer i) = true) :
    issue i s = .fault (.agentStopped (issuer i)) := by simp [issue, hs]

theorem issue_outside {i : Instr} {s : State} (hs : s.stopped (issuer i) = false) (ha : admittedIn i s.phase = false) :
    issue i s = .refuse (.notAdmitted i) := by simp [issue, hs, ha]

theorem select_tick {s : State} {ms : List Move} (hc : s.configurationRefused = false) (hs : s.schedule = .tick :: ms) :
    select s = issue .timerTick (s.setSchedule ms) := by simp [select, hc, hs]

theorem select_main {s : State} {ms : List Move} (hc : s.configurationRefused = false) (hs : s.schedule = .main :: ms) :
    select s = issue s.phase.operation (s.setSchedule ms) := by simp [select, hc, hs]

/-- What decodes to an operation is read as that operation. -/
theorem readPacket_of_decode {p : Packet} {i : Instr} (h : decode p = .ok i) : readPacket p = .ok (.operation i) := by
  unfold decode at h
  split at h
  · rename_i l hl
    cases l with
    | operation j => rw [hl, Except.ok.inj h]
    | iteration => cases h
    | host => cases h
    | nothing => cases h
  · cases h

theorem select_line {s : State} {ms : List Move} {p : Packet} {l : Line} (hc : s.configurationRefused = false)
    (hs : s.schedule = .request p :: ms) (hl : readPacket p = .ok l) : select s = request l ms s := by
  simp [select, hc, hs, hl]

theorem select_request {s : State} {ms : List Move} {p : Packet} {i : Instr} (hc : s.configurationRefused = false)
    (hs : s.schedule = .request p :: ms) (hd : decode p = .ok i) : select s = issue i (s.setSchedule ms) :=
  select_line hc hs (readPacket_of_decode hd)

theorem select_unreadable {s : State} {ms : List Move} {p : Packet} {e : DecodeError} (hc : s.configurationRefused = false)
    (hs : s.schedule = .request p :: ms) (hl : readPacket p = .error e) : select s = .refuse (.undecodable e) := by
  simp [select, hc, hs, hl]

theorem select_unscheduled {s : State} (hc : s.configurationRefused = false) (hs : s.schedule = []) :
    select s = if s.drawTick.1 || s.stopped .mainLoop then issue .timerTick s.drawTick.2
      else issue s.phase.operation s.drawTick.2 := by simp [select, hc, hs]

theorem step_of_select {s s₁ : State} {i : Instr} (h : select s = .run i s₁) : step s = exec i s₁ := by simp [step, h]

@[simp] theorem State.setSchedule_stopped (s : State) (ms : List Move) (a : Agent) : (s.setSchedule ms).stopped a = s.stopped a := rfl
@[simp] theorem State.drawGaps_stopped (s : State) (a : Agent) : s.drawGaps.2.stopped a = s.stopped a := by simp [State.stopped]
@[simp] theorem State.drawTick_stopped (s : State) (a : Agent) : s.drawTick.2.stopped a = s.stopped a := rfl

/-- An operation is issued in the state it is given; nothing else comes of it. -/
theorem issue_ne_leave {i : Instr} {s t : State} : issue i s ≠ .leave t := by unfold issue; split <;> [skip; split] <;> simp

/-- An iteration schedules nothing but main-loop steps and ticks. -/
theorem mem_iterationRest {g : TickGaps} {due : Bool} {m : Move} (h : m ∈ iterationRest g due) : m = .main ∨ m = .tick := by
  cases due <;> simp [iterationRest, mainAfterTicks] at h <;> tauto

theorem request_iteration (ms : List Move) (s : State) : request .iteration ms s =
    issue .loopTop (s.drawGaps.2.setSchedule (iterationRest s.drawGaps.1 s.cycleDue ++ ms)) := rfl

/-- What a request that runs an operation does: the operation it asks for, or `Top` of an iteration with the rest scheduled. -/
theorem request_run {l : Line} {ms : List Move} {s s₁ : State} {i : Instr} (h : request l ms s = .run i s₁) :
    s.stopped (issuer i) = false ∧ admittedIn i s.phase = true ∧
      ∃ ms' o, s₁ = { s with schedule := ms', oracle := o } ∧ ∀ m ∈ ms', m ∈ ms ∨ m = .main ∨ m = .tick := by
  cases l with
  | operation j =>
    obtain ⟨rfl, rfl, hst, ha⟩ := issue_run h
    exact ⟨hst, ha, ms, _, rfl, fun m hm => .inl hm⟩
  | iteration =>
    rw [request_iteration] at h
    obtain ⟨rfl, hs, hst, ha⟩ := issue_run h
    rw [State.setSchedule_stopped, State.drawGaps_stopped] at hst
    rw [State.setSchedule_phase, State.drawGaps_phase] at ha
    refine ⟨hst, ha, iterationRest s.drawGaps.1 s.cycleDue ++ ms, s.drawGaps.2.oracle, ?_, fun m hm => ?_⟩
    · rw [hs, State.drawGaps_eq]; rfl
    · exact (List.mem_append.1 hm).symm.imp_right mem_iterationRest
  | host => cases h
  | nothing => cases h

/-- A request that runs no operation leaves everything but the draws to come. -/
theorem request_leave {l : Line} {ms : List Move} {s t : State} (h : request l ms s = .leave t) :
    ∃ o, t = { s with schedule := ms, oracle := o } := by
  cases l with
  | operation => exact absurd h issue_ne_leave
  | iteration => exact absurd h issue_ne_leave
  | host c => cases h; exact ⟨_, State.announce_eq _ _⟩
  | nothing => cases h; exact ⟨_, rfl⟩

/-- The choice of an operation touches only the schedule and the draws. -/
theorem select_run {s s₁ : State} {i : Instr} (h : select s = .run i s₁) :
    s.configurationRefused = false ∧ s.stopped (issuer i) = false ∧ admittedIn i s.phase = true ∧
      ∃ ms o, s₁ = { s with schedule := ms, oracle := o } ∧ (∀ m ∈ ms, m ∈ s.schedule ∨ m = .main ∨ m = .tick) := by
  unfold select at h
  split at h
  · cases h
  · rename_i hc
    refine ⟨by simpa using hc, ?_⟩
    split at h
    · rename_i ms hs
      obtain ⟨rfl, rfl, hst, ha⟩ := issue_run h
      exact ⟨hst, ha, ms, s.oracle, rfl, fun m hm => .inl (hs ▸ List.mem_cons_of_mem _ hm)⟩
    · rename_i ms hs
      obtain ⟨rfl, rfl, hst, ha⟩ := issue_run h
      exact ⟨hst, ha, ms, s.oracle, rfl, fun m hm => .inl (hs ▸ List.mem_cons_of_mem _ hm)⟩
    · rename_i p ms hs
      split at h
      · obtain ⟨hst, ha, ms', o, rfl, hm'⟩ := request_run h
        exact ⟨hst, ha, ms', o, rfl, fun m hm => (hm' m hm).imp_left fun hm => hs ▸ List.mem_cons_of_mem _ hm⟩
      · cases h
    · rename_i hs
      simp only at h
      split at h
      all_goals
        obtain ⟨rfl, rfl, hst, ha⟩ := issue_run h
        exact ⟨hst, ha, s.schedule, _, rfl, fun m hm => .inl hm⟩

/-- A step that runs no operation and stops not is a request taken off the schedule. -/
theorem select_leave {s t : State} (h : select s = .leave t) :
    ∃ p ms o, s.schedule = .request p :: ms ∧ t = { s with schedule := ms, oracle := o } := by
  unfold select at h
  split at h
  · cases h
  · split at h
    · exact absurd h issue_ne_leave
    · exact absurd h issue_ne_leave
    · rename_i p ms hs
      split at h
      · obtain ⟨o, rfl⟩ := request_leave h
        exact ⟨p, ms, o, hs, rfl⟩
      · cases h
    · simp only at h
      split at h <;> exact absurd h issue_ne_leave

theorem nextOperation_eq_some {s : State} {i : Instr} : s.nextOperation = some i ↔ ∃ s₁, select s = .run i s₁ := by
  unfold State.nextOperation
  split
  · rename_i j s₁ h
    exact ⟨fun e => ⟨s₁, by rw [h, Option.some.inj e]⟩, fun ⟨s₂, e⟩ => by rw [h] at e; cases e; rfl⟩
  all_goals rename_i h; exact ⟨fun e => (nomatch e), fun ⟨s₂, e⟩ => by rw [h] at e; cases e⟩

/-- What a step that answers a next state did: one operation, admitted and not stopped, from the state with its move taken off; or a
request of no operation, which leaves everything but the schedule and the draws. -/
theorem step_next {s t : State} (h : step s = .next t) :
    (∃ i ms o, s.nextOperation = some i ∧ s.stopped (issuer i) = false ∧ admittedIn i s.phase = true ∧
      (∀ m ∈ ms, m ∈ s.schedule ∨ m = .main ∨ m = .tick) ∧ exec i { s with schedule := ms, oracle := o } = .next t ∧
      Effect i { s with schedule := ms, oracle := o } t) ∨
    ∃ p ms o, s.nextOperation = none ∧ s.schedule = .request p :: ms ∧ t = { s with schedule := ms, oracle := o } := by
  unfold step at h
  split at h
  · rename_i i s₁ hs
    obtain ⟨_, hst, ha, ms, o, rfl, hm⟩ := select_run hs
    exact .inl ⟨i, ms, o, nextOperation_eq_some.2 ⟨_, hs⟩, hst, ha, hm, h, exec_effect h⟩
  · rename_i s₁ hs
    obtain ⟨p, ms, o, hp, rfl⟩ := select_leave hs
    cases h
    exact .inr ⟨p, ms, o, by unfold State.nextOperation; rw [hs], hp, rfl⟩
  · cases h
  · cases h

end Sys2Proof.Machine
end

