-- ==== Sys2Proof/Laws/Frames.lean ====
section
/-!
SUPPORT. Register numbers, count bytes and targets in numbers (spec/30_encoding.md R86, R87, R91; spec/41_failsafe_policy.md R144,
R145), and that every write keeps the chip's registers in form.
-/

namespace Sys2Proof.Machine

/-! ### Register numbers -/

/-- The channel window ends by 255 (R8). -/
theorem ok_channelBase {p : Params} (h : p.ok = true) : p.channelBase ≤ 192 := by
  simp only [Params.ok, Params.violation] at h
  split at h; · cases h
  split at h; · cases h
  split at h; · cases h
  split at h; · cases h
  rename_i h4
  simp [Config.stride, Config.nWired] at h4; omega

/-- The prescale register is not the mode register (R8). -/
theorem ok_prescale_ne_mode {p : Params} (h : p.ok = true) : p.prescale ≠ p.mode := by
  simp only [Params.ok, Option.isNone_iff_eq_none] at h
  unfold Params.violation at h
  split at h; · cases h
  split at h; · cases h
  split at h; · cases h
  intro e
  have := congrArg BitVec.toNat e
  simp only [Params.prescale, Params.mode, BitVec.toNat_ofNat] at this
  omega

theorem channelOfReg_eq_some {p : Params} {r : Byte} {c : Nat} :
    channelOfReg p r = some c ↔ c < 16 ∧ r.toNat = p.channelBase + 4 * c := by
  unfold channelOfReg
  simp only [Config.stride, Config.nWired]
  constructor
  · intro h
    split at h
    · simp only [Option.some.injEq] at h; omega
    · cases h
  · rintro ⟨h1, h2⟩
    rw [if_pos (by omega)]; congr 1; omega

theorem channelOfReg_eq_none {p : Params} {r : Byte} (h : ∀ c < 16, r.toNat ≠ p.channelBase + 4 * c) : channelOfReg p r = none := by
  cases hc : channelOfReg p r with
  | none => rfl
  | some c =>
    obtain ⟨h1, h2⟩ := channelOfReg_eq_some.1 hc
    exact absurd h2 (h c h1)

theorem chanReg_toNat {p : Params} (h : p.ok = true) {c : Nat} (hc : c < 16) : (chanReg p c).toNat = p.channelBase + 4 * c := by
  have := ok_channelBase h
  simp only [chanReg, Config.stride, BitVec.toNat_ofNat]; omega

theorem channelOfReg_chanReg {p : Params} (h : p.ok = true) {c : Nat} (hc : c < 16) : channelOfReg p (chanReg p c) = some c :=
  channelOfReg_eq_some.2 ⟨hc, chanReg_toNat h hc⟩

/-! ### Count bytes -/

theorem lo8_eq (v : Count) : lo8 v = BitVec.ofNat 8 (v.toNat % 256) := by
  apply BitVec.eq_of_toNat_eq; simp [lo8]

theorem hi8_eq (v : Count) : hi8 v = BitVec.ofNat 8 (v.toNat / 256) := by
  apply BitVec.eq_of_toNat_eq; simp [hi8, Nat.shiftRight_eq_div_pow]

theorem ofLe2_toNat (a b : Byte) : (ofLe2 a b).toNat = a.toNat + 256 * b.toNat := by
  unfold ofLe2
  rw [BitVec.toNat_append, ← Nat.shiftLeft_add_eq_or_of_lt a.isLt, Nat.shiftLeft_eq]; omega

theorem burstEvent_eq (p : Params) (a : BusAddr) (i : Nat) (t : Pair) :
    burstEvent p a i t = .write a (chanReg p i :: countBytes t.on t.off) := by
  rw [countBytes_eq]; rfl

/-! ### Targets -/

theorem targetOf_eq (s : State) (i : Fin 32) : targetOf (enabled s.runState s.errorCode) s.desired[i.val] = s.target i := by
  unfold State.target targetOf
  by_cases h : s.runState = .stopped <;> by_cases h' : s.errorCode = 0 <;>
    simp [enabled, h, h', liveTarget, failSafeTarget, Config.mask12]

theorem target_range (s : State) (i : Fin 32) : (s.target i).on = 0 ∧ (s.target i).off.toNat ≤ 4095 := by
  unfold State.target; split
  · refine ⟨rfl, ?_⟩
    simp only [BitVec.toNat_and]
    exact Nat.and_le_right
  · exact ⟨rfl, by simp⟩

/-! ### The chip's registers stay in form -/

/-- Canonical, and numbered 0..255 (R58). -/
def Memory.registers (m : Memory) : Prop := Memory.wf m = true ∧ ∀ c ∈ m, c.1 ≤ 255

theorem busWrite_registers {s : State} (a : BusAddr) (r : Byte) (ds : List Byte) (hr : r.toNat + ds.length ≤ 256)
    (h : Memory.registers s.chip) : Memory.registers (busWrite a (r :: ds) s).chip := by
  refine ⟨busWrite_wf _ _ _ h.1, fun c hc => ?_⟩
  rcases busWrite_mem a r ds s hc with h' | h'
  · exact h.2 c h'
  · omega

theorem setChannelOutput_registers {s : State} (a : BusAddr) (c : Nat) (on off : Count) (hp : s.params.ok = true)
    (h : Memory.registers s.chip) : Memory.registers (setChannelOutput a c on off s).chip := by
  unfold setChannelOutput
  split
  · exact h
  · rename_i hc
    simp only [Config.nWired, Nat.not_le] at hc
    refine busWrite_registers a _ _ ?_ h
    rw [chanReg_toNat hp hc, countBytes_eq]
    have := ok_channelBase hp
    simp; omega

theorem programFrequency_registers {s : State} (a : BusAddr) (f : Nat) (p : Byte) (h : Memory.registers s.chip) :
    Memory.registers (programFrequency a f p s).chip := by
  have one (r v : Byte) (a : BusAddr) (s : State) (h : Memory.registers s.chip) : Memory.registers (busWrite a [r, v] s).chip :=
    busWrite_registers a r [v] (by have := r.isLt; simp; omega) h
  unfold programFrequency
  simp only [State.setController_chip]
  refine one _ _ _ _ (one _ _ _ _ (one _ _ _ _ (one _ _ _ _ ?_)))
  simpa [readRegister] using h

theorem policyEval_registers (s : State) (hp : s.params.ok = true) (h : Memory.registers s.chip) :
    Memory.registers (policyEval s).chip := by
  rw [policyEval_eq_policyLoop]
  generalize enabled s.runState s.errorCode = en
  generalize List.finRange 32 = is
  induction is generalizing s with
  | nil => exact h
  | cons i is ih =>
    rw [policyLoop_cons]
    refine ih _ (by simpa using hp) ?_
    unfold policyChannel; split
    · exact h
    · unfold gate; split
      · exact h
      · exact setChannelOutput_registers _ _ _ _ hp h

end Sys2Proof.Machine
end

