-- ==== Sys2Proof/Laws/Independence.lean ====
section
/-!
SUPPORT. Neither the cycle-due flag nor the schedule is read by the draws, the bus, the policy, the stack's changes, the frequency
sequence or startup (spec/10_state.md R22): each commutes with a change of the two.
-/

namespace Sys2Proof.Machine

/-- The same state with another flag and another schedule. -/
def State.withFlag (s : State) (b : Bool) (ms : List Move) : State := { s with cycleDue := b, schedule := ms }

theorem drawLanding_withFlag (s : State) (b : Bool) (ms : List Move) :
    (s.withFlag b ms).drawLanding = (s.drawLanding.1, s.drawLanding.2.withFlag b ms) := by
  simp only [State.drawLanding, State.withFlag]; cases s.oracle.landed <;> rfl
theorem drawByte_withFlag (s : State) (b : Bool) (ms : List Move) :
    (s.withFlag b ms).drawByte = (s.drawByte.1, s.drawByte.2.withFlag b ms) := by
  simp only [State.drawByte, State.withFlag]; cases s.oracle.reads <;> rfl
theorem drawFrame_withFlag (s : State) (b : Bool) (ms : List Move) :
    (s.withFlag b ms).drawFrame = (s.drawFrame.1, s.drawFrame.2.withFlag b ms) := by
  simp only [State.drawFrame, State.withFlag]; cases s.oracle.frames <;> rfl
theorem drawChanges_withFlag (s : State) (b : Bool) (ms : List Move) :
    (s.withFlag b ms).drawChanges = (s.drawChanges.1, s.drawChanges.2.withFlag b ms) := by
  simp only [State.drawChanges, State.withFlag]; cases s.oracle.changes <;> rfl

theorem landBytes_withFlag (r : Nat) (ds : List Byte) (s : State) (b : Bool) (ms : List Move) :
    landBytes r ds (s.withFlag b ms) = (landBytes r ds s).withFlag b ms := by
  induction ds generalizing r s with
  | nil => rfl
  | cons d ds ih =>
    simp only [landBytes_cons, drawLanding_withFlag]
    rw [← ih]
    split <;> rfl

theorem busWrite_withFlag (a : BusAddr) (bs : List Byte) (s : State) (b : Bool) (ms : List Move) :
    busWrite a bs (s.withFlag b ms) = (busWrite a bs s).withFlag b ms := by
  unfold busWrite landWrite
  split
  · rfl
  · split
    · rename_i h
      rw [if_pos (show a = (s.appendEvent _).params.chip from h)]
      exact landBytes_withFlag _ _ (s.appendEvent _) _ _
    · rename_i h
      rw [if_neg (show ¬ a = (s.appendEvent _).params.chip from h)]
      rfl

theorem setChannelOutput_withFlag (a : BusAddr) (c : Nat) (on off : Count) (s : State) (b : Bool) (ms : List Move) :
    setChannelOutput a c on off (s.withFlag b ms) = (setChannelOutput a c on off s).withFlag b ms := by
  unfold setChannelOutput
  split
  · rfl
  · exact busWrite_withFlag ..

theorem gate_withFlag (i : Fin 32) (t : Pair) (s : State) (b : Bool) (ms : List Move) :
    gate i t (s.withFlag b ms) = (gate i t s).withFlag b ms := by
  unfold gate
  by_cases h : t = s.cache[i.val]
  · rw [if_pos h, if_pos (show t = (s.withFlag b ms).cache[i.val] from h)]
  · rw [if_neg h, if_neg (show ¬ t = (s.withFlag b ms).cache[i.val] from h)]
    show (setChannelOutput s.ctrl.busAddress i.val t.on t.off (s.withFlag b ms)).setCache i t = _
    rw [setChannelOutput_withFlag]
    rfl

theorem policyChannel_withFlag (en : Bool) (s : State) (i : Fin 32) (b : Bool) (ms : List Move) :
    policyChannel en (s.withFlag b ms) i = (policyChannel en s i).withFlag b ms := by
  unfold policyChannel
  split
  · rfl
  · exact gate_withFlag ..

theorem policyEval_withFlag (s : State) (b : Bool) (ms : List Move) :
    policyEval (s.withFlag b ms) = (policyEval s).withFlag b ms := by
  unfold policyEval
  show policyChannels.foldl (policyChannel (enabled s.runState s.errorCode)) _ = _
  show _ = (policyChannels.foldl (policyChannel (enabled s.runState s.errorCode)) s).withFlag b ms
  generalize enabled s.runState s.errorCode = en
  generalize policyChannels = is
  induction is generalizing s with
  | nil => rfl
  | cons i is ih => simp only [List.foldl_cons]; rw [policyChannel_withFlag, ih]

theorem applyChanges_withFlag (cs : List HostChange) (s : State) (b : Bool) (ms : List Move) :
    (s.withFlag b ms).applyChanges cs = (s.applyChanges cs).withFlag b ms := by
  unfold State.applyChanges
  induction cs generalizing s with
  | nil => rfl
  | cons c cs ih =>
    simp only [List.foldl_cons]
    rw [← ih]
    cases c <;> rfl

theorem stackActs_withFlag (s : State) (b : Bool) (ms : List Move) : stackActs (s.withFlag b ms) = (stackActs s).withFlag b ms := by
  simp only [stackActs, drawChanges_withFlag, applyChanges_withFlag]

theorem programFrequency_withFlag (a : BusAddr) (f : Nat) (p : Byte) (s : State) (b : Bool) (ms : List Move) :
    programFrequency a f p (s.withFlag b ms) = (programFrequency a f p s).withFlag b ms := by
  unfold programFrequency
  simp only [readRegister, busRead, drawByte_withFlag, writeRegister]
  simp only [show ∀ s : State, (s.withFlag b ms).params = s.params from fun _ => rfl]
  have e1 (a r v) (s : State) : busReadReturning a r v (s.withFlag b ms) = (busReadReturning a r v s).withFlag b ms := rfl
  have e2 (n) (s : State) : wait n (s.withFlag b ms) = (wait n s).withFlag b ms := rfl
  have e3 (f p) (s : State) : (s.withFlag b ms).setController f p = (s.setController f p).withFlag b ms := rfl
  simp only [e1, e2, e3, busWrite_withFlag]

theorem setFrequency_withFlag (a : BusAddr) (f : Nat) (s : State) (b : Bool) (ms : List Move) :
    setFrequency a f (s.withFlag b ms) = (setFrequency a f s).map fun t => t.withFlag b ms := by
  unfold setFrequency
  split
  · rename_i h; rw [if_pos (show s.phase ≠ .startup ∨ s.ctrl.prescale ≠ none from h)]; rfl
  · rename_i h; rw [if_neg (show ¬ (s.phase ≠ .startup ∨ s.ctrl.prescale ≠ none) from h)]
    cases prescaleOf f <;> simp [Except.map, programFrequency_withFlag]

theorem startup_withFlag (s : State) (b : Bool) (ms : List Move) : startup (s.withFlag b ms) = (startup s).withFlag b ms := by
  unfold startup
  show orRaise (startupCall s) _ _ ((setFrequency s.params.chip _ _).map _) = _
  rw [setFrequency_withFlag]
  cases setFrequency s.params.chip Config.targetFreqHz s with
  | error e => rfl
  | ok t =>
    simp only [Except.map, orRaise]
    unfold startupRest
    rw [stackActs_withFlag]; rfl

end Sys2Proof.Machine
end

