-- ==== Sys2Proof/Laws/PerInstr.lean ====
section
/-!
SUPPORT. Statements about every operation as syntax, one lemma per constructor.
-/

/-! ### A well-formed operation is inside the domains of spec/30_encoding.md R81, so R89 refuses none -/

/-- What the family says of one operation. -/
def Sys2Proof.Laws.WellFormedInDomain.Statement (i : Sys2Proof.Instr) : Prop :=
  ∀ p : Sys2Proof.Params, i.wellFormed p = true → Sys2Proof.Machine.domainRefusal i = none

namespace Sys2Proof.Laws.WellFormedInDomain

open Sys2Proof Sys2Proof.Machine

theorem computePrescale (f : Rat) : Statement (.computePrescale f) := fun _ h => domainRefusal_of_wellFormed h
theorem setFrequency (a : Nat) (f : Rat) : Statement (.setFrequency a f) := fun _ h => domainRefusal_of_wellFormed h
theorem writeRegister (a r v : Nat) : Statement (.writeRegister a r v) := fun _ h => domainRefusal_of_wellFormed h
theorem setChannelOutput (a : Nat) (c : Rat) (on off : Nat) : Statement (.setChannelOutput a c on off) := fun _ h => domainRefusal_of_wellFormed h
theorem readRegister (a r : Nat) : Statement (.readRegister a r) := fun _ h => domainRefusal_of_wellFormed h
theorem policyEval : Statement .policyEval := fun _ h => domainRefusal_of_wellFormed h
theorem timerTick : Statement .timerTick := fun _ h => domainRefusal_of_wellFormed h
theorem loopTop : Statement .loopTop := fun _ h => domainRefusal_of_wellFormed h
theorem loopClear : Statement .loopClear := fun _ h => domainRefusal_of_wellFormed h
theorem loopPolicy : Statement .loopPolicy := fun _ h => domainRefusal_of_wellFormed h
theorem loopBusCheck : Statement .loopBusCheck := fun _ h => domainRefusal_of_wellFormed h
theorem loopDispatch (f : Frame) : Statement (.loopDispatch f) := fun _ h => domainRefusal_of_wellFormed h
theorem loopSleep : Statement .loopSleep := fun _ h => domainRefusal_of_wellFormed h
theorem startup : Statement .startup := fun _ h => domainRefusal_of_wellFormed h
theorem busWriteReg (a : BusAddr) (r v : Byte) : Statement (.busWriteReg a r v) := fun _ h => domainRefusal_of_wellFormed h
theorem busChannelBurst (a : BusAddr) (r b1 b2 b3 b4 : Byte) : Statement (.busChannelBurst a r b1 b2 b3 b4) := fun _ h => domainRefusal_of_wellFormed h
theorem busPolicyBurst (a : BusAddr) (r b3 : Byte) (b4 : BitVec 4) : Statement (.busPolicyBurst a r b3 b4) := fun _ h => domainRefusal_of_wellFormed h
theorem busReadReg (a : BusAddr) (r v : Byte) : Statement (.busReadReg a r v) := fun _ h => domainRefusal_of_wellFormed h

end Sys2Proof.Laws.WellFormedInDomain

/-! ### An operation and its canonical spelling are written alike and are well formed together (R88) -/

/-- What the family says of one operation. -/
def Sys2Proof.Laws.CanonicalSpelling.Statement (i : Sys2Proof.Instr) : Prop :=
  Sys2Proof.encode i.canonical = Sys2Proof.encode i ∧ i.canonical.canonical = i.canonical ∧
    ∀ p : Sys2Proof.Params, i.canonical.wellFormed p = i.wellFormed p

namespace Sys2Proof.Laws.CanonicalSpelling

open Sys2Proof Sys2Proof.Machine

theorem computePrescale (f : Rat) : Statement (.computePrescale f) := ⟨rfl, rfl, fun _ => rfl⟩
theorem setFrequency (a : Nat) (f : Rat) : Statement (.setFrequency a f) := ⟨rfl, rfl, fun _ => rfl⟩
theorem writeRegister (a r v : Nat) : Statement (.writeRegister a r v) := ⟨rfl, rfl, fun _ => rfl⟩
theorem setChannelOutput (a : Nat) (c : Rat) (on off : Nat) : Statement (.setChannelOutput a c on off) := ⟨rfl, rfl, fun _ => rfl⟩
theorem readRegister (a r : Nat) : Statement (.readRegister a r) := ⟨rfl, rfl, fun _ => rfl⟩
theorem policyEval : Statement .policyEval := ⟨rfl, rfl, fun _ => rfl⟩
theorem timerTick : Statement .timerTick := ⟨rfl, rfl, fun _ => rfl⟩
theorem loopTop : Statement .loopTop := ⟨rfl, rfl, fun _ => rfl⟩
theorem loopClear : Statement .loopClear := ⟨rfl, rfl, fun _ => rfl⟩
theorem loopPolicy : Statement .loopPolicy := ⟨rfl, rfl, fun _ => rfl⟩
theorem loopBusCheck : Statement .loopBusCheck := ⟨rfl, rfl, fun _ => rfl⟩
theorem loopDispatch (f : Frame) : Statement (.loopDispatch f) := ⟨rfl, rfl, fun _ => rfl⟩
theorem loopSleep : Statement .loopSleep := ⟨rfl, rfl, fun _ => rfl⟩
theorem startup : Statement .startup := ⟨rfl, rfl, fun _ => rfl⟩
theorem busWriteReg (a : BusAddr) (r v : Byte) : Statement (.busWriteReg a r v) := ⟨rfl, rfl, fun _ => rfl⟩
theorem busChannelBurst (a : BusAddr) (r b1 b2 b3 b4 : Byte) : Statement (.busChannelBurst a r b1 b2 b3 b4) := by
  show encode (decodeBurst a r b1 b2 b3 b4) = _ ∧ (decodeBurst a r b1 b2 b3 b4).canonical = decodeBurst a r b1 b2 b3 b4 ∧
    ∀ p : Params, (decodeBurst a r b1 b2 b3 b4).wellFormed p = _
  unfold decodeBurst
  split
  · rename_i h
    obtain ⟨rfl, rfl, hd⟩ := h
    have e : BitVec.setWidth 8 (BitVec.ofNat 4 b4.toNat) = b4 := by
      apply BitVec.eq_of_toNat_eq
      simp only [BitVec.toNat_setWidth, BitVec.toNat_ofNat]; omega
    exact ⟨by simp only [encode, e], rfl, fun _ => rfl⟩
  · rename_i h
    exact ⟨rfl, by simp only [Instr.canonical, decodeBurst, if_neg h], fun _ => rfl⟩
theorem busPolicyBurst (a : BusAddr) (r b3 : Byte) (b4 : BitVec 4) : Statement (.busPolicyBurst a r b3 b4) := ⟨rfl, rfl, fun _ => rfl⟩
theorem busReadReg (a : BusAddr) (r v : Byte) : Statement (.busReadReg a r v) := ⟨rfl, rfl, fun _ => rfl⟩

end Sys2Proof.Laws.CanonicalSpelling
end

