-- ==== Sys2Proof/Laws/Prescale.lean ====
section
/-!
SUPPORT. The prescale formula of spec/40_pwm_driver.md R111 in integers: what `floor(x + 1/2)` is without rationals, and the range of
the result.
-/

namespace Sys2Proof.Machine

/-- `x + 1/2` as one fraction. -/
theorem prescaleQuotient_add_half {f : Nat} (h : 1 ≤ f) :
    prescaleQuotient f + 1 / 2 = (((3906250 - 288 * f : Int) : Rat) / ((576 * f : Nat) : Rat)) := by
  have hf : (f : Rat) ≠ 0 := by exact_mod_cast (show f ≠ 0 by omega)
  unfold prescaleQuotient Config.oscHz Config.steps Config.corr
  push_cast
  field_simp
  ring

/-- `floor(x + 1/2)` by integer division. -/
theorem prescaleRounded_eq {f : Nat} (h : 1 ≤ f) : prescaleRounded f = (3906250 - 288 * f : Int) / (576 * f : Nat) := by
  unfold prescaleRounded
  rw [prescaleQuotient_add_half h]
  exact Rat.floor_intCast_div_natCast _ _

theorem clamp_bounds (x : Int) : 0 ≤ clamp 0 255 x ∧ clamp 0 255 x ≤ 255 := by unfold clamp; omega

/-- The byte for a frequency of at least 1. -/
theorem prescaleOf_eq {f : Nat} (h : 1 ≤ f) :
    prescaleOf f = .ok (BitVec.ofInt 8 (clamp 0 255 ((3906250 - 288 * f : Int) / (576 * f : Nat)))) := by
  unfold prescaleOf
  rw [if_neg (by omega), prescaleRounded_eq h]
  rfl

theorem prescaleByte_toNat (x : Int) : ((BitVec.ofInt 8 (clamp 0 255 x)).toNat : Int) = clamp 0 255 x := by
  have := clamp_bounds x
  rw [BitVec.toNat_ofInt]
  omega

theorem prescaleOf_startup : prescaleOf Config.targetFreqHz = .ok 6 := by
  rw [prescaleOf_eq (by decide)]
  decide

end Sys2Proof.Machine
end

