-- ==== Sys2Proof/Tests/Slice0.lean ====
section
/-!
SUPPORT. Tests whose expected values stand in spec/95_test_vectors.md (the row is named) or are worked out by hand from the rule that is
named, over the test instantiation of its section 0; and for every statement with hypotheses a state and operands that meet them.
-/

namespace Sys2Proof.Tests

set_option Elab.async false

open Sys2Proof Sys2Proof.Machine

/-! ### The test instantiation (95_test_vectors.md section 0) and small states -/

def testParams : Params where
  chipAddr := 0x40
  modeReg := 0x00
  prescaleReg := 0xFE
  channelBase := 0x06
  fCpu := 16000000
  timerWidth := 16
  diagSubindex := 0
  outputTableIndex := 0
  errorSource := .accessResult
  initRunState := .operational
  nodeId := 5

/-- A state of the test instantiation in phase `p`: every byte written is lost, so that the bus and the block can be compared as data. -/
def stateAt (p : Phase) : State :=
  { State.ofParams testParams with
    phase := p, runState := .operational, errorCode := 0, desired := Vector.replicate 32 0, nodeId := 0, timerCompare := 0
    oracle := ⟨[0x00], [none], [[]], List.replicate 64 false, [], 0⟩ }

/-- The same with the frequency programmed (end of startup). -/
def running (p : Phase) : State := { stateAt p with ctrl := ⟨0x40, some 1000, some 6⟩, timerCompare := 249 }

/-- A table entry. -/
def withDesired (s : State) (i : Fin 32) (v : Count) : State := { s with desired := s.desired.set i.val v i.isLt }

/-- A last-applied pair. -/
def withPair (s : State) (i : Fin 32) (off : Count) : State := s.setCache i ⟨0, off⟩

/-- The next state, if there is one. -/
def after : Host.Outcome State Fault Refusal → Option State
  | .next s => some s
  | .fault _ => none
  | .refused _ => none

/-- What a test looks at: the events, the reasons recorded, `refused`. -/
def seen (s : State) : List BusEvent × List Reason × Bool := (s.bus, s.faults.map FaultRecord.reason, s.refused)

/-! ### WellFormed: an ill-formed term for each check, and one that passes -/

theorem test_wf_frequency_zero : (Instr.computePrescale 0).wellFormed testParams = false := by decide +kernel
theorem test_wf_frequency_fraction : (Instr.computePrescale (5/2)).wellFormed testParams = false := by decide +kernel
theorem test_wf_set_frequency_address : (Instr.setFrequency 128 1000).wellFormed testParams = false := by decide +kernel
theorem test_wf_set_frequency_zero : (Instr.setFrequency 64 0).wellFormed testParams = false := by decide +kernel
theorem test_wf_write_address : (Instr.writeRegister 128 0 0).wellFormed testParams = false := by decide +kernel
theorem test_wf_write_register : (Instr.writeRegister 64 256 0).wellFormed testParams = false := by decide +kernel
theorem test_wf_write_value : (Instr.writeRegister 64 0 256).wellFormed testParams = false := by decide +kernel
theorem test_wf_channel_address : (Instr.setChannelOutput 128 0 0 0).wellFormed testParams = false := by decide +kernel
theorem test_wf_channel_negative : (Instr.setChannelOutput 64 (-1) 0 0).wellFormed testParams = false := by decide +kernel
theorem test_wf_channel_on : (Instr.setChannelOutput 64 0 65536 0).wellFormed testParams = false := by decide +kernel
theorem test_wf_channel_off : (Instr.setChannelOutput 64 0 0 65536).wellFormed testParams = false := by decide +kernel
theorem test_wf_read_address : (Instr.readRegister 128 0).wellFormed testParams = false := by decide +kernel
theorem test_wf_read_register : (Instr.readRegister 64 256).wellFormed testParams = false := by decide +kernel
theorem test_wf_burst_misaligned : (Instr.busChannelBurst 0x40 0x07 0 0 0 8).wellFormed testParams = false := by decide +kernel
theorem test_wf_burst_channel16 : (Instr.busChannelBurst 0x40 0x46 0 0 0 8).wellFormed testParams = false := by decide +kernel
theorem test_wf_policy_burst_below : (Instr.busPolicyBurst 0x40 0x02 0 8).wellFormed testParams = false := by decide +kernel
/-- The largest operands of R81 are well formed. -/
theorem test_wf_accepts : ([.computePrescale 1, .setFrequency 127 1, .writeRegister 127 255 255, .setChannelOutput 127 1000 65535 65535,
    .readRegister 127 255, .policyEval, .timerTick, .loopTop, .loopClear, .loopPolicy, .loopBusCheck, .loopDispatch 1, .loopSleep,
    .startup, .busWriteReg 0x40 0xFE 6, .busChannelBurst 0x40 0x42 1 2 3 4, .busPolicyBurst 0x40 0x06 0 8, .busReadReg 0x40 0 0] :
    List Instr).all (fun i => i.wellFormed testParams) = true := by decide +kernel

/-! ### Decoding: a form of every row, written out from R93 (lines) and R82, R83, R88 (frames) -/

/-- `computePrescale(5/2)` -/
theorem test_decode_computePrescale : decode (.line [99, 111, 109, 112, 117, 116, 101, 80, 114, 101, 115, 99, 97, 108, 101, 40, 53, 47, 50, 41]) = .ok (.computePrescale (5/2)) := by
  decide +kernel
/-- `setFrequency(0x40, 1000)` -/
theorem test_decode_setFrequency : decode (.line [115, 101, 116, 70, 114, 101, 113, 117, 101, 110, 99, 121, 40, 48, 120, 52, 48, 44, 32, 49, 48, 48, 48, 41]) = .ok (.setFrequency 0x40 1000) := by
  decide +kernel
/-- `writeRegister(0x40, 0xFE, 0x43)` -/
theorem test_decode_writeRegister : decode (.line [119, 114, 105, 116, 101, 82, 101, 103, 105, 115, 116, 101, 114, 40, 48, 120, 52, 48, 44, 32, 48, 120, 70, 69, 44, 32, 48, 120, 52, 51, 41]) = .ok (.writeRegister 0x40 0xFE 0x43) := by
  decide +kernel
/-- `setChannelOutput(64, -1, 0x0abc, 65536) ; E10` -/
theorem test_decode_setChannelOutput : decode (.line [115, 101, 116, 67, 104, 97, 110, 110, 101, 108, 79, 117, 116, 112, 117, 116, 40, 54, 52, 44, 32, 45, 49, 44, 32, 48, 120, 48, 97, 98, 99, 44, 32, 54, 53, 53, 51, 54, 41, 32, 59, 32, 69, 49, 48]) = .ok (.setChannelOutput 64 (-1) 0xABC 65536) := by
  decide +kernel
/-- `readRegister(0x40, 0)` -/
theorem test_decode_readRegister : decode (.line [114, 101, 97, 100, 82, 101, 103, 105, 115, 116, 101, 114, 40, 48, 120, 52, 48, 44, 32, 48, 41]) = .ok (.readRegister 0x40 0) := by
  decide +kernel
/-- `policyEval` -/
theorem test_decode_policyEval : decode (.line [112, 111, 108, 105, 99, 121, 69, 118, 97, 108]) = .ok (.policyEval) := by
  decide +kernel
/-- `tick` -/
theorem test_decode_tick : decode (.line [116, 105, 99, 107]) = .ok (.timerTick) := by
  decide +kernel
/-- `top` -/
theorem test_decode_top : decode (.line [116, 111, 112]) = .ok (.loopTop) := by
  decide +kernel
/-- `clear` -/
theorem test_decode_clear : decode (.line [99, 108, 101, 97, 114]) = .ok (.loopClear) := by
  decide +kernel
/-- `policy` -/
theorem test_decode_policy : decode (.line [112, 111, 108, 105, 99, 121]) = .ok (.loopPolicy) := by
  decide +kernel
/-- `buscheck` -/
theorem test_decode_buscheck : decode (.line [98, 117, 115, 99, 104, 101, 99, 107]) = .ok (.loopBusCheck) := by
  decide +kernel
/-- `dispatch(F12)` -/
theorem test_decode_dispatch : decode (.line [100, 105, 115, 112, 97, 116, 99, 104, 40, 70, 49, 50, 41]) = .ok (.loopDispatch 12) := by
  decide +kernel
/-- ` sleep ` -/
theorem test_decode_sleep : decode (.line [32, 115, 108, 101, 101, 112, 32]) = .ok (.loopSleep) := by
  decide +kernel
/-- `startup` -/
theorem test_decode_startup : decode (.line [115, 116, 97, 114, 116, 117, 112]) = .ok (.startup) := by
  decide +kernel
/-- R82, single register write: `W(40,[FE,06])` (L2-C). -/
theorem test_decode_busWriteReg : decode (.busWrite 0x40 [0xFE, 0x06]) = .ok (.busWriteReg 0x40 0xFE 0x06) := rfl
/-- R82, channel burst: `W(40,[42,34,12,CD,AB])` (L2-C). -/
theorem test_decode_busChannelBurst :
    decode (.busWrite 0x40 [0x42, 0x34, 0x12, 0xCD, 0xAB]) = .ok (.busChannelBurst 0x40 0x42 0x34 0x12 0xCD 0xAB) := rfl
/-- R88: on-count 0 and the high nibble of the last byte 0 (L1-8). -/
theorem test_decode_busPolicyBurst :
    decode (.busWrite 0x40 [0x1A, 0x00, 0x00, 0x34, 0x02]) = .ok (.busPolicyBurst 0x40 0x1A 0x34 0x2) := rfl
/-- R88: a high nibble that is not 0 is no policy burst. -/
theorem test_decode_not_policy :
    decode (.busWrite 0x40 [0x1A, 0x00, 0x00, 0x34, 0x12]) = .ok (.busChannelBurst 0x40 0x1A 0 0 0x34 0x12) := rfl
/-- R83: `R(40,00,7F)` (L2-C). -/
theorem test_decode_busReadReg : decode (.busRead 0x40 [0x00, 0x7F]) = .ok (.busReadReg 0x40 0x00 0x7F) := rfl
/-- R91: the frames have two lengths. -/
theorem test_decode_length : decode (.busWrite 0x40 [0x06, 0x00, 0x00]) = .error (.frameLength 3) := rfl

/-- `iteration` -/
theorem test_line_iteration : decodeLine [105, 116, 101, 114, 97, 116, 105, 111, 110] = .ok .iteration := by decide +kernel
/-- `host: runState := Stopped` -/
theorem test_line_host_runState : decodeLine [104, 111, 115, 116, 58, 32, 114, 117, 110, 83, 116, 97, 116, 101, 32, 58, 61, 32, 83, 116, 111, 112, 112, 101, 100] = .ok (.host (.runState .stopped)) := by decide +kernel
/-- `host: errorCode := 7` -/
theorem test_line_host_errorCode : decodeLine [104, 111, 115, 116, 58, 32, 101, 114, 114, 111, 114, 67, 111, 100, 101, 32, 58, 61, 32, 55] = .ok (.host (.errorCode 7)) := by decide +kernel
/-- `host: desired[15] := 0xFFFF` -/
theorem test_line_host_desired : decodeLine [104, 111, 115, 116, 58, 32, 100, 101, 115, 105, 114, 101, 100, 91, 49, 53, 93, 32, 58, 61, 32, 48, 120, 70, 70, 70, 70] = .ok (.host (.desired 15 0xFFFF)) := by decide +kernel
/-- `host: desired[32] := 0` -/
theorem test_line_host_desired_32 : decodeLine [104, 111, 115, 116, 58, 32, 100, 101, 115, 105, 114, 101, 100, 91, 51, 50, 93, 32, 58, 61, 32, 48] = .error .badOperands := by decide +kernel
/-- `; nothing` -/
theorem test_line_comment : decodeLine [59, 32, 110, 111, 116, 104, 105, 110, 103] = .ok .nothing := by decide +kernel
/-- `halt` -/
theorem test_line_unknown : decodeLine [104, 97, 108, 116] = .error (.unknownName [104, 97, 108, 116]) := by decide +kernel
/-- `readRegister(40h, 0)` -/
theorem test_line_number_then_letter : decodeLine [114, 101, 97, 100, 82, 101, 103, 105, 115, 116, 101, 114, 40, 52, 48, 104, 44, 32, 48, 41] = .error .badNumber := by decide +kernel
/-- `setFrequency(100)` -/
theorem test_line_arity : decodeLine [115, 101, 116, 70, 114, 101, 113, 117, 101, 110, 99, 121, 40, 49, 48, 48, 41] = .error .badOperands := by decide +kernel

/-- A composite is no single operation (R94). -/
theorem test_decode_iteration : decode (.line [105, 116, 101, 114, 97, 116, 105, 111, 110]) = .error .notOneOperation := by decide +kernel

/-- R91, rows of L2-C. -/
theorem test_classify :
    ([.read 0x40 0x00 0x7F, .write 0x40 [0xFE, 0x06], .write 0x40 [0x06, 0x00, 0x00, 0x00, 0x08],
      .write 0x40 [0x42, 0x34, 0x12, 0xCD, 0xAB], .write 0x40 [0x07, 0x00, 0x00, 0x00, 0x08],
      .write 0x40 [0x46, 0x00, 0x00, 0x00, 0x08], .write 0x40 [0x02, 0x00, 0x00, 0x00, 0x08], .write 0x40 [0x06, 0x00, 0x00],
      .delay 5] : List BusEvent).map (classify testParams) =
    [.readRegister 0x40 0x00, .writeRegister 0x40 0xFE 0x06, .setChannelOutput 0x40 0 0x0000 0x0800,
      .setChannelOutput 0x40 15 0x1234 0xABCD, .foreign, .foreign, .foreign, .foreign, .notATransaction] := by decide +kernel

/-- A table word of 16 bits is a write frame, its first byte lowest. -/
theorem test_table_word_16 : decodeTableWord 16 0x06FE = some (.busWriteReg Config.params.set.chip 0xFE 0x06) := rfl
/-- A table word of 40 bits is a burst. -/
theorem test_table_word_40 :
    decodeTableWord 40 0xABCD123442 = some (.busChannelBurst Config.params.set.chip 0x42 0x34 0x12 0xCD 0xAB) := rfl
/-- A table word is placed so that the next step runs it. -/
theorem test_fetch_word : (after (step ((stateAt .startup).withFetchWord 16 0x06FE))).map seen =
    some ([.write 0x40 [0xFE, 0x06]], [], false) := by decide +kernel
/-- So is a line: a table word of other lengths is text, here `top`. -/
theorem test_fetch_line : (after (step ((stateAt .startup).withFetchWord 24 0x706F74))).map State.phase = some .busCheck := by
  decide +kernel

/-- R184, P3 steps 2 to 7: a requested iteration takes its first step and has the rest scheduled before what was, with a tick between
`Top` and `Clear` and one between `Clear` and `Policy`. -/
theorem test_request_iteration :
    (after (step { running .top with
        cycleDue := true
        schedule := [.request (.line [105, 116, 101, 114, 97, 116, 105, 111, 110]), .request (.busWrite 0x40 [0xFE, 6])]
        oracle := ⟨[], [], [], [], [⟨1, 1, 0, 0⟩], 0⟩ })).map (fun s => (s.phase, s.schedule)) =
    some (.clear, [.tick, .main, .tick, .main, .main, .main, .request (.busWrite 0x40 [0xFE, 6])]) := by decide +kernel
/-- R184, P3 steps 2 to 7: the tick after `Top` is erased by `Clear`, the tick after `Clear` stays, and the pass ends in `Top`. -/
theorem test_iteration_ticks :
    ((iteration ⟨1, 0, 0, 0⟩ { running .top with cycleDue := true }).cycleDue, (iteration ⟨1, 1, 0, 0⟩ { running .top with cycleDue := true }).cycleDue,
      (iteration ⟨1, 1, 0, 0⟩ { running .top with cycleDue := true }).phase) = (false, true, .top) := by decide +kernel
/-- R93: a host change is announced, after one announced before it, and no input changes yet. -/
theorem test_request_host :
    (after (step { running .top with
        schedule := [.request (.line [104, 111, 115, 116, 58, 32, 101, 114, 114, 111, 114, 67, 111, 100, 101, 32, 58, 61, 32, 55])]
        oracle := ⟨[], [], [[.runState .stopped]], [], [], 0⟩ })).map (fun s => (s.oracle.changes, s.errorCode, s.schedule)) =
    some ([[.runState .stopped, .errorCode 7]], 0, []) := by decide +kernel

/-! ### Reset -/

/-- The chip's list at reset is in canonical form. -/
theorem test_reset_chip_wf : Memory.wf State.reset.chip = true := rfl
/-- R8: the test instantiation is admitted; `F_CPU = 16 000 000` gives 249 (R205). -/
theorem test_params_ok : testParams.ok = true ∧ timerCompareOf testParams = 249 := by decide +kernel
/-- R8: a channel window that covers the prescale register breaks a constraint, which the record names (R202). -/
theorem test_params_refused : (State.configure { testParams with prescaleReg := 0x45 }).faults =
    [⟨.paramConstraint, .parameter .channelBase⟩] := by decide +kernel

/-! ### One step of each operation -/

/-- L2-F1, rows 26, 27, 100, 1000, 1043, 1044, 4522, 65535. -/
theorem test_prescale_values : [26, 27, 100, 1000, 1043, 1044, 4522, 65535].map (fun f => (after (exec (.computePrescale f) (stateAt .top))).bind State.returned) =
    [some 255, some 250, some 67, some 6, some 6, some 5, some 0, some 0] := by
  decide +kernel
/-- E12. -/
theorem test_prescale_type : (after (exec (.computePrescale (5/2)) (stateAt .top))).map seen = some ([], [.operandType], true) := by
  decide +kernel
/-- L1-1: `setFrequency(A, 100)`, the read returning 00. -/
theorem test_frequency_100 : (after (exec (.setFrequency 0x40 100) (stateAt .startup))).map (fun s => (s.bus, s.ctrl)) =
    some ([.read 0x40 0x00 0x00, .write 0x40 [0x00, 0x10], .write 0x40 [0xFE, 0x43], .write 0x40 [0x00, 0x00], .delay 5,
      .write 0x40 [0x00, 0xA0]], ⟨0x40, some 100, some 67⟩) := by
  decide +kernel
/-- E1, E2, E3, E4, E5. -/
theorem test_frequency_refusals : [exec (.setFrequency 0x40 0) (stateAt .startup), exec (.setFrequency 0x40 1000) (stateAt .top),
      exec (.setFrequency 0x40 200) (running .startup), exec (.setFrequency 0x40 0) (stateAt .top),
      exec (.setFrequency 0x80 1000) (stateAt .startup)].map (fun o => (after o).map seen) =
    [some ([], [.freqZero], false), some ([], [.runtimeFrequencyChange], true), some ([], [.runtimeFrequencyChange], true),
      some ([], [.runtimeFrequencyChange], true), some ([], [.addrRange], true)] := by
  decide +kernel
/-- D1. -/
theorem test_write_register : (after (exec (.writeRegister 0x40 0xFE 0x43) (stateAt .top))).map seen = some ([.write 0x40 [0xFE, 0x43]], [], false) := by
  decide +kernel
/-- E6, E7. -/
theorem test_write_register_range : [exec (.writeRegister 0x40 0x100 0) (stateAt .top), exec (.writeRegister 0x40 0 0x100) (stateAt .top)].map
    (fun o => (after o).map seen) = [some ([], [.byteRange], true), some ([], [.byteRange], true)] := by
  decide +kernel
/-- D3, D6, D8. -/
theorem test_channel_output : [exec (.setChannelOutput 0x40 16 0 0x100) (stateAt .top), exec (.setChannelOutput 0x40 15 0x1234 0xABCD) (stateAt .top),
      exec (.setChannelOutput 0x41 0 0 1) (stateAt .top)].map (fun o => (after o).map seen) =
    [some ([], [], false), some ([.write 0x40 [0x42, 0x34, 0x12, 0xCD, 0xAB]], [], false),
      some ([.write 0x41 [0x06, 0x00, 0x00, 0x01, 0x00]], [], false)] := by
  decide +kernel
/-- E8, E9, E10, E11. -/
theorem test_channel_output_range : [exec (.setChannelOutput 0x40 3 0x10000 0) (stateAt .top), exec (.setChannelOutput 0x40 20 0x10000 0) (stateAt .top),
      exec (.setChannelOutput 0x40 (-1) 0 0) (stateAt .top), exec (.setChannelOutput 0xC8 3 0x11170 0) (stateAt .top)].map
    (fun o => (after o).map seen) =
    [some ([], [.countRange], true), some ([], [.countRange], true), some ([], [.operandType], true), some ([], [.addrRange], true)] := by
  decide +kernel
/-- P4 step 7: the drawn byte A0 is returned. -/
theorem test_read_register : (after (exec (.readRegister 0x40 0) { stateAt .top with oracle := ⟨[0xA0], [], [], [], [], 0⟩ })).map (fun s => (s.bus, s.returned)) =
    some ([.read 0x40 0x00 0xA0], some 0xA0) := by
  decide +kernel

/-- The state of L2-P3. -/
def mixed : State :=
  withPair (withPair (withPair (withDesired (withDesired (withDesired (withDesired (withDesired (withDesired (running .policy)
    0 0x0100) 1 0x0200) 2 0xF000) 9 0x0500) 14 0x1FFF) 20 0x0FFF) 0 0x0100) 2 0x0FFF) 9 0x0500

/-- L2-P3: channels 1, 2 and 14 change, in this order. -/
theorem test_policy_mixed : (after (exec .policyEval mixed)).map (fun s => (s.bus, s.cache[14], s.cache[20])) =
    some ([.write 0x40 [0x0A, 0, 0, 0x00, 0x02], .write 0x40 [0x0E, 0, 0, 0, 0], .write 0x40 [0x3E, 0, 0, 0xFF, 0x0F]],
      ⟨0, 0x0FFF⟩, ⟨0, 0⟩) := by
  decide +kernel
/-- L1-7: Stopped while channel 3 holds 2048. -/
theorem test_policy_error : (after (exec .policyEval { withPair (withDesired (running .policy) 3 2048) 3 2048 with runState := .stopped })).map
    (fun s => (s.bus, s.cache[3])) = some ([.write 0x40 [0x12, 0, 0, 0, 0]], ⟨0, 0⟩) := by
  decide +kernel
/-- L1-8: desired 1234 on channel 5 once the error is gone; the phase goes to `BusCheck`. -/
theorem test_loop_policy : (after (exec .loopPolicy (withDesired (running .policy) 5 0x1234))).map (fun s => (s.bus, s.cache[5], s.phase)) =
    some ([.write 0x40 [0x1A, 0, 0, 0x34, 0x02]], ⟨0, 0x0234⟩, .busCheck) := by
  decide +kernel
/-- R171: the flag only, and no counter. -/
theorem test_tick : (after (exec .timerTick (running .top))) = some { running .top with cycleDue := true } ∧
    (after (exec .timerTick { running .top with cycleDue := true })) = some { running .top with cycleDue := true } := by
  decide +kernel
/-- R176. -/
theorem test_top : (after (exec .loopTop { running .top with cycleDue := true })).map (fun s => (s.phase, s.cycleDue)) = some (.clear, true) ∧
    (after (exec .loopTop (running .top))).map State.phase = some .busCheck := by
  decide +kernel
/-- R177. -/
theorem test_clear : (after (exec .loopClear { running .clear with cycleDue := true })).map (fun s => (s.phase, s.cycleDue)) = some (.policy, false) := by
  decide +kernel
/-- R178: P1 steps 6 and 9. -/
theorem test_buscheck : (after (exec .loopBusCheck { running .busCheck with oracle := ⟨[], [some 1], [], [], [], 0⟩ })).map State.phase = some (.dispatch 1) ∧
    (after (exec .loopBusCheck (running .busCheck))).map State.phase = some .sleep := by
  decide +kernel
/-- P1 step 7. -/
theorem test_dispatch : (after (exec (.loopDispatch 1) { running (.dispatch 1) with oracle :=
      ⟨[], [], [[.desired 0 0x0800, .desired 15 0xFFFF, .desired 16 0x0123]], [], [], 0⟩ })).map
    (fun s => (s.desired[0], s.desired[15], s.desired[16], s.phase)) = some (0x0800, 0xFFFF, 0x0123, .top) := by
  decide +kernel
/-- R180. -/
theorem test_sleep : (after (exec .loopSleep (running .sleep))) = some (running .top) := by
  decide +kernel
/-- P5 step 1: the mode register reads 11; the sleep bit stays set. -/
theorem test_startup : (after (exec .startup { stateAt .startup with oracle := ⟨[0x11], [], [[]], List.replicate 4 true, [], 0⟩ })).map
    (fun s => (s.bus, s.ctrl, s.phase, s.runState, s.nodeId, s.timerCompare)) =
    some ([.read 0x40 0x00 0x11, .write 0x40 [0x00, 0x11], .write 0x40 [0xFE, 0x06], .write 0x40 [0x00, 0x11], .delay 5,
      .write 0x40 [0x00, 0xB1]], ⟨0x40, some 1000, some 6⟩, .top, .operational, 5, 249) := by
  decide +kernel
/-- R82, R83: one event each. -/
theorem test_bus_frames : [exec (.busWriteReg 0x40 0xFE 0x06) (running .top), exec (.busChannelBurst 0x40 0x42 0x34 0x12 0xCD 0xAB) (running .top),
      exec (.busPolicyBurst 0x40 0x1A 0x34 0x2) (running .top), exec (.busReadReg 0x40 0x00 0x7F) (running .top)].map
      (fun o => (after o).map State.bus) =
    [some [.write 0x40 [0xFE, 0x06]], some [.write 0x40 [0x42, 0x34, 0x12, 0xCD, 0xAB]],
      some [.write 0x40 [0x1A, 0x00, 0x00, 0x34, 0x02]], some [.read 0x40 0x00 0x7F]] := by
  decide +kernel
/-- R54: a byte that lands is what the register holds next. -/
theorem test_landed : (after (exec (.writeRegister 0x40 0xFE 0x43) { stateAt .top with oracle := ⟨[], [], [], [true], [], 0⟩ })).map
    (fun s => Memory.read s.chip 0xFE) = some 0x43 := by
  show some (Memory.read (Memory.write [] 0xFE 0x43) 0xFE) = _
  rw [Memory.read_write_same]

/-! ### For every statement with hypotheses, a state and operands that meet them -/

/-- A state with one request scheduled. -/
def requested (p : Phase) (q : Packet) : State := (running p).setSchedule [.request q]

/-- `iteration` -/
def iterationLine : Packet := .line [105, 116, 101, 114, 97, 116, 105, 111, 110]

/-- `host: errorCode := 7` -/
def hostLine : Packet :=
  .line [104, 111, 115, 116, 58, 32, 101, 114, 114, 111, 114, 67, 111, 100, 101, 32, 58, 61, 32, 55]

/-- A state whose main loop a recorded refusal has stopped. -/
def stoppedMain : State :=
  (running .top).raise .runtimeFrequencyChange (.operation (.setFrequency 0x40 1000) .mainLoop)

theorem witness_StepRunsRequestedOperation :
    (requested .top (.busWrite 0x40 [0xFE, 6])).configurationRefused = false ∧
    (requested .top (.busWrite 0x40 [0xFE, 6])).schedule = [.request (.busWrite 0x40 [0xFE, 6])] ∧
    decode (.busWrite 0x40 [0xFE, 6]) = .ok (.busWriteReg 0x40 0xFE 6) ∧
    (requested .top (.busWrite 0x40 [0xFE, 6])).stopped (issuer (.busWriteReg 0x40 0xFE 6)) = false ∧
    admittedIn (.busWriteReg 0x40 0xFE 6) (requested .top (.busWrite 0x40 [0xFE, 6])).phase = true := by
  refine ⟨?_, ?_, ?_, ?_, ?_⟩ <;> decide +kernel

theorem witness_StepRunsPhaseOperation :
    (((running .startup).setSchedule [.main]).mainLoopRuns ∧ ((running .startup).setSchedule [.main]).schedule = [.main]) ∧
    ((running .sleep).configurationRefused = false ∧ (running .sleep).stopped .timer = false ∧ (running .sleep).schedule = []) := by
  refine ⟨⟨⟨?_, ?_⟩, rfl⟩, ?_, ?_, rfl⟩ <;> decide +kernel

/-- A state whose timer a recorded outcome has stopped. -/
def stoppedTimer : State := (running .top).raise .operandType (.operation .timerTick .timer)

/-- A witness for each clause: a refused configuration, an unreadable frame, the stopped main loop scheduled and requested (a step and
an iteration), the stopped timer scheduled and unscheduled, an operation outside its phase. -/
theorem witness_StepStopsByName :
    (State.configure { testParams with chipAddr := 128 }).configurationRefused = true ∧
    ((requested .top (.busWrite 0x40 [1, 2, 3])).configurationRefused = false ∧
      readPacket (.busWrite 0x40 [1, 2, 3]) = .error (.frameLength 3)) ∧
    ((stoppedMain.setSchedule [.main]).configurationRefused = false ∧ (stoppedMain.setSchedule [.main]).stopped .mainLoop = true) ∧
    ((stoppedTimer.setSchedule [.tick]).configurationRefused = false ∧ (stoppedTimer.setSchedule [.tick]).stopped .timer = true) ∧
    (stoppedTimer.configurationRefused = false ∧ stoppedTimer.schedule = [] ∧ stoppedTimer.stopped .mainLoop = false) ∧
    (readPacket (.line [116, 111, 112]) = .ok (.operation .loopTop) ∧ stoppedMain.stopped (issuer .loopTop) = true) ∧
    (readPacket iterationLine = .ok .iteration ∧ stoppedMain.stopped (issuer .loopTop) = true) ∧
    ((requested .sleep (.line [116, 111, 112])).configurationRefused = false ∧
      (requested .sleep (.line [116, 111, 112])).stopped (issuer .loopTop) = false ∧ admittedIn .loopTop .sleep = false) := by
  decide +kernel

/-- The boundaries of each constraint: admitted with the window ending at 255 and with compare value 0, refused one beyond. -/
theorem witness_ConfigurationChecksParameters :
    ({ testParams with channelBase := 192, chipAddr := 127, modeReg := 191, prescaleReg := 0 } : Params).ok = true ∧
    ({ testParams with channelBase := 193, modeReg := 191, prescaleReg := 0 } : Params).ok = false ∧
    ({ testParams with modeReg := 69 } : Params).ok = false ∧ ({ testParams with chipAddr := 128 } : Params).violation = some .chipAddr ∧
    ({ testParams with modeReg := 70 } : Params).ok = true ∧
    ({ testParams with prescaleReg := 0 } : Params).ok = false ∧ ({ testParams with prescaleReg := 256 } : Params).ok = false ∧
    ({ testParams with fCpu := 64000, timerWidth := 0 } : Params).ok = true ∧ ({ testParams with fCpu := 63999 } : Params).ok = false ∧
    ({ testParams with timerWidth := 7 } : Params).ok = false ∧ ({ testParams with timerWidth := 8 } : Params).ok = true := by
  decide +kernel

theorem witness_TimerCompareGivesOneMillisecond : testParams.ok = true := by decide +kernel

theorem witness_ComputePrescaleResult : (1 : Nat) ≤ 1 := le_refl 1

theorem witness_PrescaleNeverTies : (1 : Nat) ≤ 1 := le_refl 1

theorem witness_PrescaleNonIncreasing : (1 : Nat) ≤ 26 ∧ 26 ≤ 27 ∧ (prescaleOf 26).toOption = some 255 ∧
    (prescaleOf 27).toOption = some 250 := by decide +kernel

/-- Both sides of each breakpoint. -/
theorem witness_PrescaleBreakpoints : ([1, 26, 27, 28, 99, 100, 101, 904, 905, 1043, 1044, 4521, 4522].map fun f =>
    (prescaleOf f).toOption) = [some 255, some 255, some 250, some 241, some 68, some 67, some 66, some 7, some 6, some 6, some 5,
      some 1, some 0] := by decide +kernel

theorem witness_SetFrequencyPrograms : (127 : Nat) ≤ 127 ∧ (1 : Nat) ≤ 1 ∧ (stateAt .startup).phase = .startup ∧
    (stateAt .startup).ctrl.prescale = none ∧ (BitVec.ofNat 7 127 ≠ (stateAt .startup).params.chip) := by decide +kernel

theorem witness_ModeRegisterBytes : (stateAt .startup).params.ok = true ∧ (127 : Nat) ≤ 127 ∧ (1 : Nat) ≤ 1 ∧
    (stateAt .startup).phase = .startup ∧ (stateAt .startup).ctrl.prescale = none := by decide +kernel

theorem witness_SetFrequencyRefused :
    ((127 : Nat) ≤ 127 ∧ (running .startup).ctrl.prescale ≠ none) ∧ (stateAt .top).phase ≠ .startup ∧
    ((stateAt .startup).phase = .startup ∧ (stateAt .startup).ctrl.prescale = none) := by decide +kernel

theorem witness_WriteRegisterResult : (127 : Nat) ≤ 127 ∧ (255 : Nat) ≤ 255 := ⟨le_refl _, le_refl _⟩

theorem witness_SetChannelOutputResult : (127 : Nat) ≤ 127 ∧ (15 : Nat) < 16 ∧ (65535 : Nat) ≤ 65535 := by decide

theorem witness_ChannelGate : ((127 : Nat) ≤ 127 ∧ (16 : Nat) ≤ 16 ∧ (65535 : Nat) ≤ 65535) ∧
    ((127 : Nat) < 128 ∨ (65535 : Nat) < 0 ∨ (65535 : Nat) < 0) ∧ ((127 : Nat) < 0 ∨ (65535 : Nat) < 65536 ∨ (65535 : Nat) < 0) := by
  decide

theorem witness_ReadRegisterResult : (127 : Nat) ≤ 127 ∧ (255 : Nat) ≤ 255 ∧ (stateAt .top).oracle.reads = [0x00] := by
  decide +kernel

/-- Every refusal of R89, one beyond its bound, for each operation that can raise it. -/
theorem witness_DomainRefusals :
    ¬ ((-1 : Rat).den = 1 ∧ 0 ≤ (-1 : Rat).num) ∧ ¬ ((5/2 : Rat).den = 1 ∧ 0 ≤ (5/2 : Rat).num) ∧ (127 : Nat) < 128 ∧
    (255 : Nat) < 256 ∧ (65535 : Nat) < 65536 := by decide +kernel

theorem witness_BytesLandIndependently : ([true, false] : List Bool).length = ([1, 2] : List Byte).length ∧
    ({ stateAt .top with oracle := ⟨[], [], [], [true, false, true], [], 0⟩ } : State).oracle.landed = [true, false] ++ [true] := by
  decide +kernel

theorem witness_BusFramesResult : ((15 : Nat) < 16 ∧ (0x42 : Byte).toNat = testParams.channelBase + 4 * 15) ∧
    (∀ c < 16, (0x46 : Byte).toNat ≠ testParams.channelBase + 4 * c) ∧ (∀ c < 16, (0x05 : Byte).toNat ≠ testParams.channelBase + 4 * c) := by
  decide +kernel

theorem witness_OperationsAreTheirFrames : testParams.ok = true ∧ (127 : Nat) ≤ 127 ∧ (255 : Nat) ≤ 255 ∧ (15 : Nat) < 16 ∧
    (65535 : Nat) ≤ 65535 := by decide +kernel

/-- Entry and pair of channel 16 changed, those of channel 15 kept. -/
theorem witness_SkippedChannels : ∀ i : Fin 32, i.val < 16 →
    ((running .policy).desired.set 16 0xFFFF)[i.val] = (running .policy).desired[i.val] ∧
    ((running .policy).cache.set 16 ⟨0, 1⟩)[i.val] = (running .policy).cache[i.val] := by decide +kernel

theorem witness_PolicyIsIdempotent : ∃ t, exec .policyEval mixed = .next t := ⟨_, rfl⟩

theorem witness_UnchangedTargetsEmitNothing : ∀ i : Fin 32, i.val < 16 → (running .policy).cache[i.val] = (running .policy).target i := by
  unfold State.target; decide +kernel

theorem witness_FailSafeEmitsOffBurstsOnce :
    ({ mixed with runState := .stopped } : State).runState = .stopped ∧ ({ mixed with errorCode := 1 } : State).errorCode ≠ 0 ∧
    ({ running .policy with errorCode := 0x10000, cache := Vector.replicate 32 ⟨0, 0⟩ } : State).errorCode ≠ 0 := by decide +kernel

theorem witness_FailSafeReachesTheChipWhereBytesLand : mixed.params.ok = true ∧ mixed.ctrl.busAddress = mixed.params.chip ∧
    ({ mixed with errorCode := 1 } : State).errorCode ≠ 0 ∧ (∃ i : Fin 32, i.val < 16 ∧ mixed.cache[i.val] ≠ ⟨0, 0⟩) ∧
    ({ mixed with oracle := ⟨[], [], [], List.replicate 65 true, [], 0⟩ } : State).oracle.landed = List.replicate 64 true ++ [true] ∧
    mixed.oracle.landed = List.replicate 64 false ++ [] := by decide +kernel

theorem witness_PolicyEmitsPolicyBursts : mixed.params.ok = true ∧ ∃ t, exec .policyEval mixed = .next t :=
  ⟨by decide +kernel, _, rfl⟩

theorem witness_TimerTickResult : ((running .startup).setSchedule [.tick]).configurationRefused = false ∧
    ((running .startup).setSchedule [.tick]).stopped .timer = false ∧ ((running .startup).setSchedule [.tick]).schedule = [.tick] := by
  decide +kernel

theorem witness_BusCheckAndSleepResult : (running .busCheck).oracle.frames = [none] := rfl

theorem witness_DispatchDrawsInputs : ({ running .top with oracle := ⟨[], [], [[.errorCode 1], []], [], [], 0⟩ } : State).oracle.changes =
    [.errorCode 1] :: [[]] := rfl

theorem witness_IterationIsMainLoopSteps :
    ((running .top).mainLoopRuns ∧ (running .top).phase = .top ∧ (running .top).cycleDue = false) ∧
    ({ running .top with cycleDue := true } : State).mainLoopRuns ∧ (running .top).stopped .timer = false ∧
    readPacket iterationLine = .ok .iteration ∧
    ({ running .top with oracle := ⟨[], [], [], [], [⟨2, 0, 1, 0⟩], 0⟩ } : State).oracle.gaps = [⟨2, 0, 1, 0⟩] := by
  unfold State.mainLoopRuns; decide +kernel

/-- A host line before a dispatch; a line that is a comment. -/
theorem witness_HostLinesAnnounceChanges :
    (((requested (.dispatch 1) hostLine).setSchedule [.request hostLine, .main]).mainLoopRuns ∧
      readPacket hostLine = .ok (.host (.errorCode 7)) ∧
      ({ running (.dispatch 1) with oracle := ⟨[], [], [], [], [], 0⟩ } : State).oracle.changes = []) ∧
    readPacket (.line [59, 32, 110, 111]) = .ok .nothing := by
  unfold State.mainLoopRuns; decide +kernel

theorem witness_StartupResult : (stateAt .startup).phase = .startup ∧ (stateAt .startup).ctrl.prescale = none := ⟨rfl, rfl⟩

theorem witness_StartupStopsOnRefusal : (running .startup).ctrl.prescale ≠ none ∧ (stateAt .top).phase ≠ .startup := by decide +kernel

theorem witness_FlagHasOneSetterOneClearerOneReader :
    ((after (step ((running .busCheck).setSchedule [.tick]))).map State.cycleDue = some true ∧ (running .busCheck).cycleDue = false) ∧
    (after (step ({ running .clear with cycleDue := true, schedule := [.main] }))).map State.cycleDue = some false ∧
    (∃ t, exec .loopSleep (running .sleep) = .next t) := by
  refine ⟨by decide +kernel, by decide +kernel, _, rfl⟩

/-- Steps that change the cache, bus and phase; the controller, the node and the timer; an input; the chip; the byte returned; the flag; the
record. -/
theorem witness_FieldsHaveOneOwner :
    (after (step { withDesired (running .policy) 5 1 with schedule := [.main] })).map (fun s => (s.cache[5], s.bus.length, s.phase)) =
      some (⟨0, 1⟩, 1, .busCheck) ∧
    (after (step ((stateAt .startup).setSchedule [.main]))).map (fun s => (s.ctrl.prescale, s.nodeId, s.timerCompare)) =
      some (some 6, 5, 249) ∧
    (after (step { running (.dispatch 1) with schedule := [.main], oracle := ⟨[], [], [[.errorCode 1]], [], [], 0⟩ })).map
      State.errorCode = some 1 ∧
    (after (step (requested .top (.busRead 0x40 [0x00, 0x7F])))).map State.returned = some (some 0x7F) ∧
    (after (step ((running .top).setSchedule [.tick]))).map State.cycleDue = some true ∧
    (after (step ((running .startup).setSchedule [.main]))).map State.refused = some true := by decide +kernel

theorem witness_HistoryAndRecordOnlyGrow :
    (after (step { stoppedMain with schedule := [.request (.busWrite 0x40 [0xFE, 6])] })).map (fun s => (s.bus.length, s.refused)) =
      some (1, true) := by decide +kernel

theorem witness_StoppedAgentTakesNoStep : (after (step (stoppedMain.setSchedule [.tick]))).isSome = true ∧
    (stoppedMain.setSchedule [.tick]).stopped .mainLoop = true ∧
    (stoppedMain.setSchedule [.tick]).nextOperation = some .timerTick := by decide +kernel

theorem witness_PhaseMovesAlongTheCycle : (after (step ((running .sleep).setSchedule [.main]))).map State.phase = some .top ∧
    ((running (.dispatch 1)).setSchedule [.main]).nextOperation = some (.loopDispatch 1) ∧
    issuePhase (.loopDispatch 1) = some (.dispatch 1) := by decide +kernel

theorem witness_MainLoopAlwaysSteps : ((running .policy).setSchedule [.main]).mainLoopRuns ∧
    ((running .policy).setSchedule [.main]).schedule = [.main] := by unfold State.mainLoopRuns; decide +kernel

theorem witness_EvaluationsNeverOutnumberTicks : ((stateAt .startup).phase = .startup ∧ (stateAt .startup).cycleDue = false) ∧
    ((stateAt .startup).setSchedule [.tick, .main]).undisturbed := ⟨⟨rfl, rfl⟩, by unfold State.undisturbed; decide +kernel⟩

/-- The farthest phase, `BusCheck`, with ticks between the five main-loop moves. -/
theorem witness_DueCycleIsServed :
    ({ running .busCheck with cycleDue := true } : State).mainLoopRuns ∧
    ({ running .busCheck with cycleDue := true } : State).stopped .timer = false ∧ Phase.busCheck ≠ .startup ∧
    (∀ m ∈ [Move.main, .tick, .main, .main, .tick, .main, .main], m = .tick ∨ m = .main) ∧
    5 ≤ [Move.main, .tick, .main, .main, .tick, .main, .main].count .main := by unfold State.mainLoopRuns; decide +kernel

theorem witness_ClassifyReadsBackTheDriver : testParams.ok = true ∧ (15 : Nat) < 16 ∧
    classify testParams (.write 0x40 [0x42, 0x34, 0x12, 0xCD, 0xAB]) = .setChannelOutput 0x40 15 0x1234 0xABCD ∧
    (∀ c < 16, (0x46 : Byte).toNat ≠ testParams.channelBase + 4 * c) := by decide +kernel

theorem witness_ResetMeetsInvariant : testParams.ok = true := by decide +kernel

/-- A state before startup, its next move startup, that meets the invariant and has an empty history. -/
def fresh : State := (stateAt .startup).setSchedule [.main, .tick]

theorem fresh_inv : Inv fresh where
  params := by decide +kernel
  address := by decide +kernel
  onZero := by decide +kernel
  offMasked := by decide +kernel
  unwired := by decide +kernel
  chip := ⟨rfl, fun c hc => absurd hc List.not_mem_nil⟩
  bus := fun e he => absurd he List.not_mem_nil
  ctrl := .inl ⟨rfl, rfl⟩
  record := rfl
  running := fun h => absurd rfl h
  clearDue := fun h => nomatch h

theorem witness_StepKeepsInvariant : Inv fresh ∧ ∃ t, step fresh = .next t ∧ t.phase = .top := ⟨fresh_inv, _, rfl, rfl⟩

theorem witness_OwnHistoryIsProgrammingThenBursts : Inv fresh ∧ fresh.undisturbed ∧ fresh.ownHistory ∧ ∃ t, step fresh = .next t :=
  ⟨fresh_inv, by unfold State.undisturbed; decide +kernel, .inl ⟨rfl, rfl, rfl⟩, _, rfl⟩

end Sys2Proof.Tests
end

/-! ### The cycle-due flag (R22): what each operation leaves it at, and that no operation but `LOOP_TOP` reads it -/

namespace Sys2Proof.Machine

/-- The flag after an operation that found it at `b` (R22). -/
def flagAfter : Instr → Bool → Bool
  | .timerTick, _ => true
  | .loopClear, _ => false
  | _, b => b

theorem eq_timerTick_of_flagAfter_false {i : Instr} (h : flagAfter i false = true) : i = .timerTick := by
  cases i with
  | timerTick => rfl
  | _ => cases h

theorem eq_loopClear_of_flagAfter_true {i : Instr} (h : flagAfter i true = false) : i = .loopClear := by
  cases i with
  | loopClear => rfl
  | _ => cases h

theorem Effect.cycleDue {i : Instr} {s t : State} (h : Effect i s t) : t.cycleDue = flagAfter i s.cycleDue := by
  cases h with
  | recorded _ _ _ _ hi _ =>
    cases i with
    | timerTick => cases hi
    | loopClear => cases hi
    | _ => rfl
  | _ => simp [flagAfter]

theorem Effect.schedule {i : Instr} {s t : State} (h : Effect i s t) : t.schedule = s.schedule := by
  cases h <;> simp

/-- A step that changes the flag runs an operation that does. -/
theorem step_changes_cycleDue {s t : State} (h : step s = .next t) (hne : t.cycleDue ≠ s.cycleDue) :
    ∃ i, s.nextOperation = some i ∧ t.cycleDue = flagAfter i s.cycleDue := by
  obtain ⟨i, _, _, hop, -, -, -, -, he⟩ | ⟨_, _, _, -, -, rfl⟩ := step_next h
  · exact ⟨i, hop, he.cycleDue⟩
  · exact absurd rfl hne

theorem orRaise_withFlag (i : Instr) (a : Agent) (s : State) (e : Except Reason State) (b : Bool) (ms : List Move) :
    orRaise i a (s.withFlag b ms) (e.map fun t => t.withFlag b ms) = (orRaise i a s e).withFlag b ms := by
  cases e <;> rfl

theorem guardDomain_withFlag {i : Instr} {a : Agent} {s t : State} {run : State → Host.Outcome State Fault Refusal} {b : Bool}
    {ms : List Move} (hrun : run s = .next t → run (s.withFlag b ms) = .next (t.withFlag b ms))
    (h : guardDomain i a s run = .next t) : guardDomain i a (s.withFlag b ms) run = .next (t.withFlag b ms) := by
  cases hd : domainRefusal i with
  | some r =>
    rw [guardDomain_some hd] at h ⊢
    cases h; rfl
  | none =>
    rw [guardDomain_none hd] at h ⊢
    exact hrun h

theorem burstFrame_withFlag {a : BusAddr} {r : Byte} {ds : List Byte} {s t : State} (b : Bool) (ms : List Move)
    (h : burstFrame a r ds s = .next t) : burstFrame a r ds (s.withFlag b ms) = .next (t.withFlag b ms) := by
  obtain ⟨hr, rfl⟩ := burstFrame_next h
  rw [← busWrite_withFlag]
  exact if_pos hr

theorem readRegister_withFlag (a : BusAddr) (r : Byte) (s : State) (b : Bool) (ms : List Move) :
    readRegister a r (s.withFlag b ms) = ((readRegister a r s).1, (readRegister a r s).2.withFlag b ms) := by
  simp only [readRegister, busRead, drawByte_withFlag]; rfl

theorem loopPolicy_withFlag (s : State) (b : Bool) (ms : List Move) :
    loopPolicy (s.withFlag b ms) = (loopPolicy s).withFlag b ms := by
  simp only [loopPolicy, policyEval_withFlag]; rfl

theorem loopBusCheck_withFlag (s : State) (b : Bool) (ms : List Move) :
    loopBusCheck (s.withFlag b ms) = (loopBusCheck s).withFlag b ms := by
  simp only [loopBusCheck, drawFrame_withFlag]
  cases s.drawFrame.1 <;> rfl

theorem loopDispatch_withFlag (f : Frame) (s : State) (b : Bool) (ms : List Move) :
    loopDispatch f (s.withFlag b ms) = (loopDispatch f s).withFlag b ms := by
  simp only [loopDispatch, stackActs_withFlag]; rfl

/-- Every operation but `LOOP_TOP` does the same to the rest of the state whatever the flag and the schedule hold. -/
theorem exec_withFlag {i : Instr} {s t : State} (hi : i ≠ .loopTop) (h : exec i s = .next t) (b : Bool) (ms : List Move) :
    exec i (s.withFlag b ms) = .next (t.withFlag (flagAfter i b) ms) := by
  cases i with
  | loopTop => exact absurd rfl hi
  | computePrescale f =>
    simp only [exec, execComputePrescale] at h ⊢
    refine guardDomain_withFlag (fun h => ?_) h
    cases h
    rw [← orRaise_withFlag]
    cases prescaleOf (naturalOf f) <;> rfl
  | setFrequency a f =>
    simp only [exec, execSetFrequency] at h ⊢
    refine guardDomain_withFlag (fun h => ?_) h
    cases h
    simp only [setFrequency_withFlag, orRaise_withFlag]
  | writeRegister a r v =>
    simp only [exec, execWriteRegister] at h ⊢
    refine guardDomain_withFlag (fun h => ?_) h
    cases h
    simp only [writeRegister, busWrite_withFlag]
  | setChannelOutput a c on off =>
    simp only [exec, execSetChannelOutput] at h ⊢
    refine guardDomain_withFlag (fun h => ?_) h
    cases h
    simp only [setChannelOutput_withFlag]
  | readRegister a r =>
    simp only [exec, execReadRegister] at h ⊢
    refine guardDomain_withFlag (fun h => ?_) h
    cases h
    simp only [readRegister_withFlag]; rfl
  | policyEval => cases h; exact congrArg _ (policyEval_withFlag s b ms)
  | timerTick => cases h; rfl
  | loopClear => cases h; rfl
  | loopPolicy => cases h; exact congrArg _ (loopPolicy_withFlag s b ms)
  | loopBusCheck => cases h; exact congrArg _ (loopBusCheck_withFlag s b ms)
  | loopDispatch f => cases h; exact congrArg _ (loopDispatch_withFlag f s b ms)
  | loopSleep => cases h; rfl
  | startup => cases h; exact congrArg _ (startup_withFlag s b ms)
  | busWriteReg a r v => cases h; exact congrArg _ (busWrite_withFlag a [r, v] s b ms)
  | busChannelBurst a r b₁ b₂ b₃ b₄ => exact burstFrame_withFlag b ms h
  | busPolicyBurst a r c d => exact burstFrame_withFlag b ms h
  | busReadReg a r v => cases h; rfl

/-- The flag is a boolean and no counter (R22). -/
theorem raiseCycleDue_of_cycleDue {s : State} (h : s.cycleDue = true) : s.raiseCycleDue = s := by
  cases s; cases h; rfl

/-- Settles O40: `flagAfter` names the one setter and the one clearer, `exec_withFlag` says that nothing else reads the flag. -/
theorem flagHasOneSetterOneClearerOneReader : Obligations.FlagHasOneSetterOneClearerOneReader := by
  refine ⟨fun s t h hs ht => ?setter, fun s t h hs ht => ?clearer, fun i s t b hi h => ?reader, fun s hs => ?noCounter⟩
  case setter =>
    obtain ⟨i, hop, hflag⟩ := step_changes_cycleDue h (by simp [hs, ht])
    rw [hs, ht] at hflag
    rw [hop, eq_timerTick_of_flagAfter_false hflag.symm]
  case clearer =>
    obtain ⟨i, hop, hflag⟩ := step_changes_cycleDue h (by simp [hs, ht])
    rw [hs, ht] at hflag
    rw [hop, eq_loopClear_of_flagAfter_true hflag.symm]
  case reader =>
    have hschedule : t.withFlag (flagAfter i b) s.schedule = { t with cycleDue := flagAfter i b } := by
      rw [← (exec_effect h).schedule]; rfl
    exact ⟨flagAfter i b, hschedule ▸ exec_withFlag hi h b s.schedule⟩
  case noCounter => exact congrArg _ (raiseCycleDue_of_cycleDue hs)

end Sys2Proof.Machine

/-! ### The mode register's bytes in the frequency sequence (R84) -/

namespace Sys2Proof.Machine

/-- A first frequency call in `Startup` with its operands in their domains runs the sequence of R112. -/
theorem exec_setFrequency_admitted {a f : Nat} {p : Byte} {s : State} (ha : a ≤ 127) (hs : s.phase = .startup)
    (hn : s.ctrl.prescale = none) (hp : prescaleOf f = .ok p) :
    exec (.setFrequency a (f : Rat)) s = .next (programFrequency (BitVec.ofNat 7 a) f p s) := by
  have hdomain : domainRefusal (.setFrequency a (f : Rat)) = none := by
    simp [domainRefusal, checkAddress_none ha, checkNatural_natCast]
  rw [exec, execSetFrequency, guardDomain_none hdomain, naturalOf_natCast, setFrequency_admitted hs hn hp]
  rfl

theorem sleepBit_eq_twoPow : Config.sleepBit = BitVec.twoPow 8 4 := by decide

theorem aiRestart_eq_twoPow_or : Config.aiRestart = BitVec.twoPow 8 5 ||| BitVec.twoPow 8 7 := by decide

theorem modeAsleep_getLsbD (old : Byte) {k : Nat} (h : k ≠ 4) : (modeAsleep old).getLsbD k = old.getLsbD k := by
  rw [modeAsleep, sleepBit_eq_twoPow]
  simp [BitVec.getLsbD_twoPow, h.symm]

theorem modeRestarted_getLsbD (old : Byte) {k : Nat} (h5 : k ≠ 5) (h7 : k ≠ 7) :
    (modeRestarted old).getLsbD k = old.getLsbD k := by
  rw [modeRestarted, aiRestart_eq_twoPow_or]
  simp [BitVec.getLsbD_twoPow, h5.symm, h7.symm]

/-- The byte a single-register write puts into register `r`, if the event is one. -/
def byteWrittenTo (r : Byte) : BusEvent → Option Byte
  | .write _ [q, v] => if q = r then some v else none
  | _ => none

theorem byteWrittenTo_write_self (r v : Byte) (a : BusAddr) : byteWrittenTo r (.write a [r, v]) = some v := if_pos rfl

theorem byteWrittenTo_write_other {q r : Byte} (h : q ≠ r) (v : Byte) (a : BusAddr) :
    byteWrittenTo r (.write a [q, v]) = none := if_neg h

/-- Of the events of R112 the mode register takes three bytes; the prescale register is another one. -/
theorem programmingEvents_mode_bytes {p : Params} (h : p.prescale ≠ p.mode) (a : BusAddr) (old prescale : Byte) :
    (programmingEvents p a old prescale).filterMap (byteWrittenTo p.mode) = [modeAsleep old, old, modeRestarted old] := by
  have hread : byteWrittenTo p.mode (.read a p.mode old) = none := rfl
  have hwait : byteWrittenTo p.mode (.delay 5) = none := rfl
  simp [programmingEvents, hread, hwait, byteWrittenTo_write_self, byteWrittenTo_write_other h, modeAsleep, modeRestarted]

/-- Settles O13: the call appends `programmingEvents`, whose mode bytes are `old` with the bits of R84's masks set. -/
theorem modeRegisterBytes : Obligations.ModeRegisterBytes := by
  intro s a f hok ha hf hs hn
  have hevents (p : Byte) : (programFrequency (BitVec.ofNat 7 a) f p s).bus.drop s.bus.length =
      programmingEvents s.params (BitVec.ofNat 7 a) s.drawByte.1 p := by
    rw [programFrequency_bus, List.drop_left]
  refine ⟨_, s.drawByte.1, [modeAsleep s.drawByte.1, s.drawByte.1, modeRestarted s.drawByte.1],
    exec_setFrequency_admitted ha hs hn (prescaleOf_eq hf), ?read, ?bytes, rfl, ?bits⟩
  case read => rw [hevents]; rfl
  case bytes =>
    rw [hevents]
    exact (programmingEvents_mode_bytes (ok_prescale_ne_mode hok) _ _ _).symm
  case bits =>
    intro v hv k h4 h5 h7
    simp only [List.mem_cons, List.not_mem_nil, or_false] at hv
    rcases hv with rfl | rfl | rfl
    · exact modeAsleep_getLsbD _ h4
    · rfl
    · exact modeRestarted_getLsbD _ h5 h7

end Sys2Proof.Machine

/-! ### The gate of `SET_CHANNEL_OUTPUT` (R116) -/

namespace Sys2Proof.Machine

/-- With its operands in their domains the call is the driver's operation on that channel. -/
theorem exec_setChannelOutput_admitted {a c on off : Nat} (ha : a ≤ 127) (hon : on ≤ 65535) (hoff : off ≤ 65535) (s : State) :
    exec (.setChannelOutput a (c : Rat) on off) s =
      .next (setChannelOutput (addressOf a) c (countOf on) (countOf off) s) := by
  have hdomain : domainRefusal (.setChannelOutput a (c : Rat) on off) = none := by
    simp [domainRefusal, checkAddress_none ha, checkCount_none hon, checkCount_none hoff, checkNatural_natCast]
  rw [exec, execSetChannelOutput, guardDomain_none hdomain, naturalOf_natCast]

/-- The address is checked first, then the counts (R207); the channel plays no part. -/
theorem domainRefusal_setChannelOutput_some {a on off : Nat} (h : 127 < a ∨ 65535 < on ∨ 65535 < off) (c : Rat) :
    domainRefusal (.setChannelOutput a c on off) = some (if 127 < a then .addrRange else .countRange) := by
  by_cases ha : 127 < a
  · simp [domainRefusal, checkAddress_some ha, ha]
  · obtain hon | ⟨hon, hoff⟩ : 65535 < on ∨ on ≤ 65535 ∧ 65535 < off := by omega
    · simp [domainRefusal, checkAddress_none (Nat.not_lt.1 ha), checkCount_some hon, ha]
    · simp [domainRefusal, checkAddress_none (Nat.not_lt.1 ha), checkCount_none hon, checkCount_some hoff, ha]

/-- A recorded refusal sets `refused` whatever it was (R203). -/
theorem State.raise_of_isRefusal {r : Reason} (h : r.isRefusal = true) (c : Cause) (s : State) :
    s.raise r c = { s with faults := s.faults ++ [⟨r, c⟩], refused := true } := by
  rw [State.raise, h, Bool.or_true]

/-- Settles O17: an admitted call meets the gate and leaves the state; any other is refused before it. -/
theorem channelGate : Obligations.ChannelGate := by
  refine ⟨fun s a c on off ha hc hon hoff => ?gate, fun s a c on off _ h => ?refusal⟩
  case gate => rw [exec_setChannelOutput_admitted ha hon hoff, setChannelOutput_unwired hc]
  case refusal =>
    have hname : (if 127 < a then Reason.addrRange else .countRange).isRefusal = true := by split <;> rfl
    rw [exec_of_domainRefusal (domainRefusal_setChannelOutput_some h c), State.raise_of_isRefusal hname]

end Sys2Proof.Machine

/-! ### The enable decision (R141, R148) -/

namespace Sys2Proof.Machine

theorem enabled_iff (rs : RunState) (ec : Nat) : enabled rs ec = true ↔ rs ≠ .stopped ∧ ec = 0 := by
  rw [enabled, Bool.and_eq_true, bne_iff_ne, beq_iff_eq]

theorem outputMode_eq_live_iff (s : State) : s.outputMode = .live ↔ enabled s.runState s.errorCode = true := by
  unfold State.outputMode
  split
  case isTrue h => exact iff_of_true rfl h
  case isFalse h => exact iff_of_false nofun h

/-- Of the four run states all but `Stopped`. -/
theorem runState_ne_stopped_iff (rs : RunState) : rs ≠ .stopped ↔ rs = .init ∨ rs = .preOperational ∨ rs = .operational := by
  cases rs <;> decide

/-- Settles O23: the mode is `Live` exactly when `enabled` holds, and the run states other than `Stopped` are the three named. -/
theorem enableDecision : Obligations.EnableDecision :=
  ⟨enabled_iff, fun s => by rw [outputMode_eq_live_iff, enabled_iff, runState_ne_stopped_iff]⟩

end Sys2Proof.Machine

/-! ### What an evaluation takes from channels that are not wired (R143): nothing -/

namespace Sys2Proof.Machine

/-- The same state with another table of commanded values and other last-applied pairs. -/
def State.withTables (s : State) (d : Vector Count 32) (pairs : Vector Pair 32) : State :=
  { s with desired := d, cache := pairs }

/-! A driver call neither reads nor writes the two tables. -/

theorem drawLanding_withTables (s : State) (d : Vector Count 32) (pairs : Vector Pair 32) :
    (s.withTables d pairs).drawLanding = (s.drawLanding.1, s.drawLanding.2.withTables d pairs) := by
  simp only [State.drawLanding, State.withTables]; cases s.oracle.landed <;> rfl

theorem landBytes_withTables (r : Nat) (ds : List Byte) (s : State) (d : Vector Count 32) (pairs : Vector Pair 32) :
    landBytes r ds (s.withTables d pairs) = (landBytes r ds s).withTables d pairs := by
  induction ds generalizing r s with
  | nil => rfl
  | cons b ds ih =>
    simp only [landBytes_cons, drawLanding_withTables]
    rw [← ih]
    split <;> rfl

theorem landWrite_withTables (a : BusAddr) (bs : List Byte) (s : State) (d : Vector Count 32) (pairs : Vector Pair 32) :
    landWrite a bs (s.withTables d pairs) = (landWrite a bs s).withTables d pairs := by
  cases bs with
  | nil => rfl
  | cons r data =>
    simp only [landWrite, landBytes_withTables, apply_ite (State.withTables · d pairs)]
    rfl

theorem setChannelOutput_withTables (a : BusAddr) (c : Nat) (on off : Count) (s : State) (d : Vector Count 32)
    (pairs : Vector Pair 32) :
    setChannelOutput a c on off (s.withTables d pairs) = (setChannelOutput a c on off s).withTables d pairs := by
  unfold setChannelOutput
  split
  · rfl
  · exact landWrite_withTables a _ (s.appendEvent _) d pairs

/-- `u` is `s` but for the entries and pairs of channels that are not wired. -/
structure AgreeOnWired (s u : State) : Prop where
  frame : u = s.withTables u.desired u.cache
  desired : ∀ i : Fin 32, i.val < 16 → u.desired[i.val] = s.desired[i.val]
  cache : ∀ i : Fin 32, i.val < 16 → u.cache[i.val] = s.cache[i.val]

/-- A gate on the same pair goes the same way, and then makes the same driver call. -/
theorem gate_withTables {i : Fin 32} {s : State} {pairs : Vector Pair 32} (h : pairs[i.val] = s.cache[i.val]) (t : Pair)
    (d : Vector Count 32) :
    gate i t (s.withTables d pairs) = (gate i t s).withTables d (gate i t (s.withTables d pairs)).cache := by
  have hpair : (s.withTables d pairs).cache[i.val] = s.cache[i.val] := h
  by_cases ht : t = s.cache[i.val]
  · rw [gate_same ht, gate_same (ht.trans hpair.symm)]; rfl
  · rw [gate_change ht, gate_change (hpair ▸ ht), setChannelOutput_withTables]; rfl

theorem policyChannel_agreeOnWired {s u : State} (h : AgreeOnWired s u) (en : Bool) (i : Fin 32) :
    AgreeOnWired (policyChannel en s i) (policyChannel en u i) where
  frame := by
    by_cases hi : i.val < 16
    · rw [policyChannel_wired hi, policyChannel_wired hi, h.desired i hi, gate_desired]
      have hgate := gate_withTables (h.cache i hi) (targetOf en s.desired[i.val]) u.desired
      rwa [← h.frame] at hgate
    · rw [policyChannel_unwired (Nat.not_lt.1 hi), policyChannel_unwired (Nat.not_lt.1 hi)]
      exact h.frame
  desired j hj := by rw [policyChannel_desired, policyChannel_desired, h.desired j hj]
  cache j hj := by rw [policyChannel_cache, policyChannel_cache, h.desired j hj, h.cache j hj]

theorem policyLoop_agreeOnWired {s u : State} (h : AgreeOnWired s u) (en : Bool) (is : List (Fin 32)) :
    AgreeOnWired (policyLoop en is s) (policyLoop en is u) := by
  induction is generalizing s u with
  | nil => exact h
  | cons i is ih => exact ih (policyChannel_agreeOnWired h en i)

theorem policyEval_agreeOnWired {s u : State} (h : AgreeOnWired s u) : AgreeOnWired (policyEval s) (policyEval u) := by
  have hrun : u.runState = s.runState := by rw [h.frame]; rfl
  have herror : u.errorCode = s.errorCode := by rw [h.frame]; rfl
  rw [policyEval_eq_policyLoop, policyEval_eq_policyLoop, hrun, herror]
  exact policyLoop_agreeOnWired h _ _

theorem policyEval_cache_unwired {i : Fin 32} (h : 16 ≤ i.val) (s : State) :
    (policyEval s).cache[i.val] = s.cache[i.val] := by
  rw [policyEval_cache, if_neg (Nat.not_lt.2 h)]

/-- Every event of an evaluation is the burst of a wired channel. -/
theorem exists_burstEvent_of_mem_policyEval {s : State} {e : BusEvent} (he : e ∈ (policyEval s).bus.drop s.bus.length) :
    ∃ i < 16, ∃ p : Pair, e = burstEvent s.params s.ctrl.busAddress i p := by
  rw [policyEval_bus, List.drop_left, List.mem_filterMap] at he
  obtain ⟨i, -, hi⟩ := he
  obtain ⟨⟨hwired, -⟩, hburst⟩ := Option.ite_none_right_eq_some.1 hi
  exact ⟨i.val, hwired, targetOf _ s.desired[i.val], (Option.some.inj hburst).symm.trans (burstEvent_eq ..).symm⟩

/-- Settles O25: `AgreeOnWired` is kept by every channel, so by the evaluation, and only wired channels emit. -/
theorem skippedChannels : Obligations.SkippedChannels := by
  intro s d pairs h
  have hagree : AgreeOnWired (policyEval s) (policyEval (s.withTables d pairs)) :=
    policyEval_agreeOnWired ⟨rfl, fun i hi => (h i hi).1, fun i hi => (h i hi).2⟩
  have hdesired : (policyEval (s.withTables d pairs)).desired = d := policyEval_desired _
  refine ⟨policyEval s, policyEval (s.withTables d pairs), rfl, rfl, ?frame, hagree.cache, fun i hi => ⟨?keptPair, ?keptOther⟩,
    fun e he => exists_burstEvent_of_mem_policyEval he⟩
  case frame => exact hagree.frame.trans (by rw [hdesired]; rfl)
  case keptPair => exact policyEval_cache_unwired hi s
  case keptOther => exact policyEval_cache_unwired hi (s.withTables d pairs)

end Sys2Proof.Machine

/-! ### The two steps of test-and-reset on the flag: `LOOP_TOP` and `LOOP_CLEAR` (R176, R177) -/

namespace Sys2Proof.Machine

/-- `top()` is one write of the phase, to the value the flag chooses. -/
theorem loopTop_eq_setPhase (s : State) : loopTop s = s.setPhase (if s.cycleDue = true then .clear else .busCheck) :=
  (apply_ite s.setPhase ..).symm

/-- Settles O32: both branches of `top()` are a `setPhase`, so the flag decides the phase and no other field is written. -/
theorem loopTopResult : Obligations.LoopTopResult := fun s => congrArg Host.Outcome.next (loopTop_eq_setPhase s)

/-- Settles O33: `clear()` has no branch; it is the write of the flag followed by the write of the phase. -/
theorem loopClearResult : Obligations.LoopClearResult := fun _ => rfl

end Sys2Proof.Machine

/-! ### Decoding what the encoder writes (R82, R83, R88, R93) -/

namespace Sys2Proof

/-- An operand as the encoder writes it: its bytes, the tokens they are read as, and the operand those stand for. -/
structure WrittenOperand where
  bytes : List Byte
  tokens : List Token
  operand : Operand
  lexed : ∀ {rest : List Byte}, Separated rest → lexFrom .idle (bytes ++ rest) = prepend tokens (lexFrom .idle rest)
  parsed : Sys2Proof.operand tokens = some operand
  noComma : .comma ∉ tokens

namespace WrittenOperand

def ofNat (n : Nat) : WrittenOperand where
  bytes := encodeNat n
  tokens := [.number n]
  operand := .quantity n
  lexed := lexFrom_encodeNat n
  parsed := rfl
  noComma := by simp

def ofRat (q : Rat) : WrittenOperand where
  bytes := encodeRat q
  tokens := ratTokens q
  operand := .quantity q
  lexed := lexFrom_encodeRat q
  parsed := operand_ratTokens q
  noComma := by unfold ratTokens; split <;> split <;> simp

def ofFrame (f : Frame) : WrittenOperand where
  bytes := encodeFrame f
  tokens := [.word (encodeFrame f)]
  operand := .frame f
  lexed := lexFrom_encodeFrame f
  parsed := by simp [Sys2Proof.operand, frameName_encodeFrame]
  noComma := by simp

end WrittenOperand

/-- The tokens of an operand list: what each operand reads as, with commas between. -/
def joinTokens : List WrittenOperand → List Token
  | [] => []
  | [w] => w.tokens
  | w :: ws => w.tokens ++ .comma :: joinTokens ws

theorem lexFrom_joinOperands (ws : List WrittenOperand) {rest : List Byte} (h : Separated rest) :
    lexFrom .idle (joinOperands (ws.map (·.bytes)) ++ rest) = prepend (joinTokens ws) (lexFrom .idle rest) := by
  induction ws with
  | nil => exact (prepend_nil _).symm
  | cons w ws ih =>
    cases ws with
    | nil => exact w.lexed h
    | cons v vs =>
      have hcomma : Separated (44 :: 32 :: (joinOperands ((v :: vs).map (·.bytes)) ++ rest)) := ⟨by decide, by decide⟩
      have hblank (cs : List Byte) : lexFrom .idle (32 :: cs) = lexFrom .idle cs :=
        (lexFrom_cons rfl cs).trans (prepend_nil _)
      show lexFrom .idle ((w.bytes ++ ascii [',', ' '] ++ joinOperands ((v :: vs).map (·.bytes))) ++ rest) = _
      rw [List.append_assoc, List.append_assoc]
      refine (w.lexed hcomma).trans ?_
      rw [lexFrom_punctuation (t := .comma) rfl, hblank, ih, prepend_prepend, prepend_prepend]
      simp [joinTokens]

theorem splitCommas_of_not_mem {ts : List Token} (h : .comma ∉ ts) : splitCommas ts = [ts] := by
  induction ts with
  | nil => rfl
  | cons t ts ih =>
    obtain ⟨ht, hts⟩ := not_or.1 (List.mem_cons.not.1 h)
    cases t with
    | comma => exact absurd rfl ht
    | _ => simp [splitCommas, ih hts]

theorem splitCommas_append_comma {ts : List Token} (h : .comma ∉ ts) (us : List Token) :
    splitCommas (ts ++ .comma :: us) = ts :: splitCommas us := by
  induction ts with
  | nil => rfl
  | cons t ts ih =>
    obtain ⟨ht, hts⟩ := not_or.1 (List.mem_cons.not.1 h)
    cases t with
    | comma => exact absurd rfl ht
    | _ => simp [splitCommas, ih hts]

theorem operandsOf_splitCommas (w : WrittenOperand) (ws : List WrittenOperand) :
    operandsOf (splitCommas (joinTokens (w :: ws))) = some ((w :: ws).map (·.operand)) := by
  induction ws generalizing w with
  | nil => simp [joinTokens, splitCommas_of_not_mem w.noComma, operandsOf, w.parsed]
  | cons v vs ih => simp [joinTokens, splitCommas_append_comma w.noComma, operandsOf, w.parsed, ih]

theorem operandList_joinTokens (w : WrittenOperand) (ws : List WrittenOperand) :
    operandList (.lparen :: (joinTokens (w :: ws) ++ [.rparen])) = some ((w :: ws).map (·.operand)) := by
  simp [operandList, operandsOf_splitCommas]

/-! #### Lines -/

theorem OpName.ofBytes_bytes (k : OpName) : OpName.ofBytes k.bytes = some k := by cases k <;> decide

/-- A line that begins with the name of an operation is no `iteration` and no `host:` line. -/
theorem parseLine_name (k : OpName) (ts : List Token) : parseLine (.word k.bytes :: ts) = namedLine k.bytes ts := by
  have hiteration : k.bytes ≠ iterationWord := by cases k <;> decide
  have hhost : (k.bytes == hostWord) = false := by cases k <;> decide
  simp [parseLine, hiteration, hhost]

/-- The bare name of an operation without operands. -/
theorem decode_name {k : OpName} {i : Instr} (h : build k [] = some i) : decode (.line k.bytes) = .ok i := by
  have hlex : lexFrom .idle k.bytes = .ok [.word k.bytes] := by simpa [lexFrom, lexEnd] using lexFrom_name k (rest := []) trivial
  simp [decode, readPacket, decodeLine, hlex, parseLine_name, namedLine, OpName.ofBytes_bytes, operandList, h, Line.asOperation]

theorem lexFrom_encodeCall (k : OpName) (ws : List WrittenOperand) :
    lexFrom .idle (encodeCall k (ws.map (·.bytes))) = .ok (.word k.bytes :: .lparen :: (joinTokens ws ++ [.rparen])) := by
  have hparen (cs : List Byte) : Separated (40 :: cs) := ⟨by decide, by decide⟩
  have hclose : Separated [(41 : Byte)] := ⟨by decide, by decide⟩
  unfold encodeCall
  rw [List.append_assoc, List.append_assoc]
  refine (lexFrom_name k (hparen _)).trans ?_
  rw [lexFrom_punctuation (t := .lparen) rfl]
  show prepend _ (prepend _ (lexFrom .idle (joinOperands _ ++ [41]))) = _
  rw [lexFrom_joinOperands ws hclose, lexFrom_punctuation (t := .rparen) rfl]
  simp [lexFrom, lexEnd]

/-- A call with the operands that its operation takes. -/
theorem decode_call {k : OpName} {i : Instr} (w : WrittenOperand) (ws : List WrittenOperand)
    (h : build k ((w :: ws).map (·.operand)) = some i) :
    decode (.line (encodeCall k ((w :: ws).map (·.bytes)))) = .ok i := by
  simp only [decode, readPacket, decodeLine, lexFrom_encodeCall, parseLine_name, namedLine, OpName.ofBytes_bytes,
    operandList_joinTokens, h, Line.asOperation]

theorem Operand.nat_natCast (n : Nat) : (Operand.quantity n).nat = some n := by simp [Operand.nat, isNatural]

/-! #### Frames -/

/-- The policy's row and its frame (R88). -/
theorem decodeBurst_policy (a : BusAddr) (r c : Byte) (d : BitVec 4) :
    decodeBurst a r 0 0 c (d.setWidth 8) = .busPolicyBurst a r c d := by
  have hd : (d.setWidth 8).toNat = d.toNat := by simp; omega
  have hlt : d.toNat < 16 := d.isLt
  simp [decodeBurst, hd, hlt]

open WrittenOperand in
/-- Settles O50: a call is lexed and parsed operand by operand (`decode_call`), a bare name is `decode_name`, a frame is read
by its length. -/
theorem decodeEncodeAgree : Obligations.DecodeEncodeAgree := by
  intro i
  cases i with
  | computePrescale f => exact decode_call (ofRat f) [] rfl
  | setFrequency a f => exact decode_call (ofNat a) [ofRat f] (by simp [build, ofNat, ofRat, Operand.nat_natCast, Instr.canonical])
  | writeRegister a r v =>
    exact decode_call (ofNat a) [ofNat r, ofNat v] (by simp [build, ofNat, Operand.nat_natCast, Instr.canonical])
  | setChannelOutput a c on off =>
    exact decode_call (ofNat a) [ofRat c, ofNat on, ofNat off]
      (by simp [build, ofNat, ofRat, Operand.nat_natCast, Instr.canonical])
  | readRegister a r => exact decode_call (ofNat a) [ofNat r] (by simp [build, ofNat, Operand.nat_natCast, Instr.canonical])
  | policyEval => exact decode_name rfl
  | timerTick => exact decode_name rfl
  | loopTop => exact decode_name rfl
  | loopClear => exact decode_name rfl
  | loopPolicy => exact decode_name rfl
  | loopBusCheck => exact decode_name rfl
  | loopDispatch f => exact decode_call (ofFrame f) [] rfl
  | loopSleep => exact decode_name rfl
  | startup => exact decode_name rfl
  | busWriteReg a r v => rfl
  | busChannelBurst a r b₁ b₂ b₃ b₄ => rfl
  | busPolicyBurst a r c d => exact congrArg Except.ok (decodeBurst_policy a r c d)
  | busReadReg a r v => rfl

end Sys2Proof

/-! ### What an evaluation does (R142 to R147) -/

namespace Sys2Proof.Machine

/-- The burst a channel owes: none where its pair is at the target already (R146). -/
def State.dueBurst (s : State) (i : Fin 32) : Option BusEvent :=
  if s.target i = s.cache[i.val] then none else some (burstEvent s.params s.ctrl.busAddress i.val (s.target i))

theorem mem_wiredChannels {i : Fin 32} : i ∈ wiredChannels ↔ i.val < 16 := by simp [wiredChannels]

theorem policyEval_bus_dueBurst (s : State) : (policyEval s).bus = s.bus ++ wiredChannels.filterMap s.dueBurst := by
  rw [policyEval_bus, wiredChannels, List.filterMap_filter]
  refine congrArg (s.bus ++ ·) (List.filterMap_congr fun i _ => ?_)
  rw [targetOf_eq, ← burstEvent_eq, State.dueBurst]
  by_cases hi : i.val < 16 <;> by_cases ht : s.target i = s.cache[i.val] <;> simp [hi, ht]

theorem policyEval_cache_wired {i : Fin 32} (h : i.val < 16) (s : State) : (policyEval s).cache[i.val] = s.target i := by
  rw [policyEval_cache, if_pos h, targetOf_eq]

/-- An evaluation writes the pairs, the history, the chip and the draws, and no other field. -/
theorem policyEval_frame (s : State) : policyEval s =
    { s with cache := (policyEval s).cache, bus := (policyEval s).bus, chip := (policyEval s).chip
             oracle := (policyEval s).oracle } := by
  ext1 <;> simp

theorem policyEval_chip {s : State} {q : Nat} (h : ∀ i : Fin 32, i.val < 16 → s.target i ≠ s.cache[i.val] →
      q < (chanReg s.params i.val).toNat ∨ (chanReg s.params i.val).toNat + 4 ≤ q) :
    Memory.read (policyEval s).chip q = Memory.read s.chip q := by
  rw [policyEval_eq_policyLoop]
  exact policyLoop_chip _ _ _ (List.nodup_finRange 32) fun i _ hw ht => h i hw (targetOf_eq s i ▸ ht)

theorem policyEval_outcome (s : State) : PolicyOutcome s (policyEval s) where
  wired _ h := policyEval_cache_wired h s
  unwired _ h := policyEval_cache_unwired h s
  bus := policyEval_bus_dueBurst s
  frame := policyEval_frame s
  chip _ h := policyEval_chip h

theorem mem_dueBursts {s : State} {e : BusEvent} (h : e ∈ wiredChannels.filterMap s.dueBurst) :
    ∃ i : Fin 32, i.val < 16 ∧ e = burstEvent s.params s.ctrl.busAddress i.val (s.target i) := by
  obtain ⟨i, hi, he⟩ := List.mem_filterMap.1 h
  obtain ⟨-, hburst⟩ := Option.ite_none_left_eq_some.1 he
  exact ⟨i, mem_wiredChannels.1 hi, (Option.some.inj hburst).symm⟩

end Sys2Proof.Machine

/-! ### How the events of the driver are read (R91) -/

namespace Sys2Proof.Machine

theorem ofLe2_lo8_hi8 (v : Count) : ofLe2 (lo8 v) (hi8 v) = v := by
  apply BitVec.eq_of_toNat_eq
  have := v.isLt
  rw [ofLe2_toNat, lo8_eq, hi8_eq]
  simp only [BitVec.toNat_ofNat]
  omega

theorem classify_burstEvent {p : Params} (h : p.ok = true) {c : Nat} (hc : c < 16) (a : BusAddr) (t : Pair) :
    classify p (burstEvent p a c t) = .setChannelOutput a c t.on t.off := by
  rw [burstEvent_eq]
  simp [countBytes, le2, classify, channelOfReg_chanReg h hc, ofLe2_lo8_hi8]

/-- What an evaluation emits with the controller at the chip's address is of the policy's shape (R88, R118). -/
theorem isPolicyBurst_burstEvent {s : State} (h : s.params.ok = true) (ha : s.ctrl.busAddress = s.params.chip) {i : Fin 32}
    (hi : i.val < 16) : isPolicyBurst s.params (burstEvent s.params s.ctrl.busAddress i.val (s.target i)) := by
  obtain ⟨hon, hoff⟩ := target_range s i
  exact ⟨i.val, (s.target i).off, by rw [classify_burstEvent h hi, hon, ha], hi, hoff⟩

end Sys2Proof.Machine

/-! ### What an operation leaves as it was, field by field (R21, R22, R24, R25, R34) -/

namespace Sys2Proof.Machine

section
variable {i : Instr} {s t : State} (h : Effect i s t)
include h

theorem Effect.params : t.params = s.params := by cases h <;> simp

theorem Effect.phase (hi : movesPhase i = false) : t.phase = s.phase := by cases h <;> simp [movesPhase] at hi ⊢

theorem Effect.cache (hi : i ≠ .policyEval ∧ i ≠ .loopPolicy) : t.cache = s.cache := by cases h <;> simp at hi ⊢

theorem Effect.ctrl (hi : i ≠ .startup ∧ ∀ a f, i ≠ .setFrequency a f) : t.ctrl = s.ctrl := by cases h <;> simp at hi ⊢

theorem Effect.bus (hi : usesBus i = false) : t.bus = s.bus := by cases h <;> simp [usesBus] at hi ⊢

theorem Effect.chip (hi : writesChip i = false) : t.chip = s.chip := by cases h <;> simp [writesChip] at hi ⊢

theorem Effect.record (hi : mayRecord i = false) : t.faults = s.faults ∧ t.refused = s.refused := by
  cases h with
  | recorded _ _ _ _ _ hm => exact nomatch hm.symm.trans hi
  | _ => simp [mayRecord] at hi ⊢

theorem Effect.inputs (hi : i ≠ .startup ∧ ∀ f, i ≠ .loopDispatch f) :
    t.runState = s.runState ∧ t.errorCode = s.errorCode ∧ t.desired = s.desired := by cases h <;> simp at hi ⊢

theorem Effect.node (hi : i ≠ .startup) : t.nodeId = s.nodeId ∧ t.timerCompare = s.timerCompare := by cases h <;> simp at hi ⊢

theorem Effect.returned (hi : returnsByte i = false) : t.returned = s.returned := by
  cases h <;> simp [returnsByte] at hi ⊢

theorem Effect.busAddress : t.ctrl.busAddress = s.ctrl.busAddress := by cases h <;> simp

end

end Sys2Proof.Machine

/-! ### The owners of the fields (R21, R22, R24, R25, R34, R54, R60, R203) -/

namespace Sys2Proof.Machine

/-- A part of the state that a step changed, and that the choice of the operation does not touch, was changed by an operation
that can change it. -/
theorem step_changes {s t : State} (h : step s = .next t) {α : Type} (part : State → α) {owns : Instr → Prop}
    (hchoice : ∀ ms o, part { s with schedule := ms, oracle := o } = part s)
    (hkeep : ∀ {i s'}, Effect i s' t → ¬ owns i → part t = part s') (hne : part t ≠ part s) :
    ∃ i, s.nextOperation = some i ∧ owns i := by
  obtain ⟨i, ms, o, hop, -, -, -, -, he⟩ | ⟨p, ms, o, -, -, rfl⟩ := step_next h
  · by_contra hno
    exact hne ((hkeep he fun hi => hno ⟨i, hop, hi⟩).trans (hchoice ms o))
  · exact absurd (hchoice ms o) hne

/-- The three inputs the stack owns (R26 to R28). -/
def State.inputs (s : State) : RunState × Nat × Vector Count 32 := (s.runState, s.errorCode, s.desired)

theorem step_params {s t : State} (h : step s = .next t) : t.params = s.params := by
  obtain ⟨_, _, _, -, -, -, -, -, he⟩ | ⟨_, _, _, -, -, rfl⟩ := step_next h
  · exact he.params
  · rfl

/-- Settles O41: what an operation is no owner of it leaves as it was (`Effect`'s lemmas field by field), and the choice of the
operation writes the schedule and the draws alone (`step_changes`). -/
theorem fieldsHaveOneOwner : Obligations.FieldsHaveOneOwner := by
  intro s t h
  refine ⟨fun hne => ?flag, fun hne => ?phase, fun hne => ?cache, fun hne => ?ctrl, fun hne => ?bus, fun hne => ?chip,
    fun hne => ?record, fun hne => ?inputs, fun hne => ?node, fun hne => ?returned, step_params h⟩
  case flag =>
    obtain ⟨i, hop, hflag⟩ := step_changes_cycleDue h hne
    cases i with
    | timerTick => exact .inl hop
    | loopClear => exact .inr hop
    | _ => exact absurd hflag hne
  case phase => exact step_changes h State.phase (fun _ _ => rfl) (fun he hi => he.phase (by simpa using hi)) hne
  case cache =>
    obtain ⟨i, hop, rfl | rfl⟩ := step_changes h State.cache (owns := fun i => i = .policyEval ∨ i = .loopPolicy)
      (fun _ _ => rfl) (fun he hi => he.cache (not_or.1 hi)) hne
    · exact .inl hop
    · exact .inr hop
  case ctrl =>
    obtain ⟨i, hop, rfl | ⟨a, f, rfl⟩⟩ := step_changes h State.ctrl (owns := fun i => i = .startup ∨ ∃ a f, i = .setFrequency a f)
      (fun _ _ => rfl) (fun he hi => he.ctrl (by simpa using hi)) hne
    · exact .inl hop
    · exact .inr ⟨a, f, hop⟩
  case bus => exact step_changes h State.bus (fun _ _ => rfl) (fun he hi => he.bus (by simpa using hi)) hne
  case chip => exact step_changes h State.chip (fun _ _ => rfl) (fun he hi => he.chip (by simpa using hi)) hne
  case record =>
    exact step_changes h (fun s => (s.faults, s.refused)) (fun _ _ => rfl)
      (fun he hi => Prod.ext_iff.2 (he.record (by simpa using hi))) (by simpa [imp_iff_not_or] using hne)
  case inputs =>
    obtain ⟨i, hop, rfl | ⟨f, rfl⟩⟩ := step_changes h State.inputs (owns := fun i => i = .startup ∨ ∃ f, i = .loopDispatch f)
      (fun _ _ => rfl) (fun he hi => by simp [State.inputs, he.inputs (by simpa using hi)])
      (by simpa [State.inputs, imp_iff_not_or] using hne)
    · exact .inl hop
    · exact .inr ⟨f, hop⟩
  case node =>
    obtain ⟨i, hop, rfl⟩ := step_changes h (fun s => (s.nodeId, s.timerCompare)) (owns := fun i => i = .startup)
      (fun _ _ => rfl) (fun he hi => Prod.ext_iff.2 (he.node hi)) (by simpa [imp_iff_not_or] using hne)
    exact hop
  case returned => exact step_changes h State.returned (fun _ _ => rfl) (fun he hi => he.returned (by simpa using hi)) hne

/-! ### What only grows (R21, R37, R203) -/

theorem Effect.bus_grows {i : Instr} {s t : State} (h : Effect i s t) : s.bus <+: t.bus := by
  cases h with
  | frequency | startup => simp [programFrequency_bus]
  | setChannelOutput => rw [setChannelOutput_bus]; split <;> simp
  | policyEval | loopPolicy => simp [policyEval_bus_dueBurst]
  | _ => simp

theorem Effect.faults_grow {i : Instr} {s t : State} (h : Effect i s t) : s.faults <+: t.faults := by
  cases h <;> simp

theorem Effect.refused_kept {i : Instr} {s t : State} (h : Effect i s t) (hs : s.refused = true) : t.refused = true := by
  cases h <;> simp [hs]

/-- Settles O42: each operation appends to the history and to the record, and `raise` sets `refused` or keeps it. -/
theorem historyAndRecordOnlyGrow : Obligations.HistoryAndRecordOnlyGrow := by
  intro s t h
  obtain ⟨_, _, _, -, -, -, -, -, he⟩ | ⟨_, _, _, -, -, rfl⟩ := step_next h
  · exact ⟨he.bus_grows, he.faults_grow, he.refused_kept⟩
  · exact ⟨List.prefix_rfl, List.prefix_rfl, id⟩

theorem stopped_of_faults_grow {s t : State} {a : Agent} (h : s.faults <+: t.faults) (hs : s.stopped a = true) : t.stopped a = true := by
  obtain ⟨new, hnew⟩ := h
  simp only [State.stopped] at hs ⊢
  rw [← hnew, List.any_append, hs, Bool.true_or]

/-- Settles O43: the record that stops the agent is kept, and what is run was issued by an agent not stopped. -/
theorem stoppedAgentTakesNoStep : Obligations.StoppedAgentTakesNoStep := by
  refine ⟨fun s t a h hs => stopped_of_faults_grow (historyAndRecordOnlyGrow s t h).2.1 hs, fun s i hop => ?_⟩
  obtain ⟨s₁, hsel⟩ := nextOperation_eq_some.1 hop
  obtain ⟨-, hstopped, -⟩ := select_run hsel
  exact hstopped

/-! ### The main loop's cycle (R24, R170, R189) -/

theorem admittedIn_iff {i : Instr} {q : Phase} (h : issuePhase i = some q) (p : Phase) : admittedIn i p = true ↔ p = q := by
  simp [admittedIn, h]

/-- An operation in its phase leaves the phase as it was or moves it to one that follows. -/
theorem Effect.phase_follows {i : Instr} {s t : State} (h : Effect i s t) (ha : admittedIn i s.phase = true) :
    t.phase = s.phase ∨ t.phase.follows s.phase := by
  cases h with
  | loopTop => exact .inr (by rw [(admittedIn_iff rfl _).1 ha, loopTop_phase]; split <;> simp [Phase.follows])
  | loopClear => exact .inr (by rw [(admittedIn_iff rfl _).1 ha]; rfl)
  | loopPolicy => exact .inr (by rw [(admittedIn_iff rfl _).1 ha, loopPolicy_phase]; rfl)
  | loopBusCheck => exact .inr (by rw [(admittedIn_iff rfl _).1 ha, loopBusCheck_phase]; split <;> simp [Phase.follows])
  | loopDispatch => exact .inr (by rw [(admittedIn_iff rfl _).1 ha, loopDispatch_phase]; rfl)
  | loopSleep => exact .inr (by rw [(admittedIn_iff rfl _).1 ha]; rfl)
  | startup => exact .inr (by rw [(admittedIn_iff rfl _).1 ha, startupRest_phase]; rfl)
  | _ => exact .inl (by simp)

theorem phase_of_nextOperation {s : State} {i : Instr} {p : Phase} (hop : s.nextOperation = some i) (hp : issuePhase i = some p) :
    s.phase = p := by
  obtain ⟨s₁, hsel⟩ := nextOperation_eq_some.1 hop
  obtain ⟨-, -, hadmitted, -⟩ := select_run hsel
  exact (admittedIn_iff hp _).1 hadmitted

/-- Settles O44: each operation of the main loop is issued in its own phase, and from there leads along `Phase.follows`. -/
theorem phaseMovesAlongTheCycle : Obligations.PhaseMovesAlongTheCycle := by
  refine ⟨fun s t h => ?_, fun s i p => phase_of_nextOperation⟩
  obtain ⟨_, _, _, -, -, ha, -, -, he⟩ | ⟨_, _, _, -, -, rfl⟩ := step_next h
  · exact he.phase_follows ha
  · exact .inl rfl

end Sys2Proof.Machine

/-! ### The invariant (R25, R34, R58, R91, R118, R203, R232) -/

namespace Sys2Proof.Machine

/-- The choice of the operation touches nothing that the invariant speaks of. -/
theorem Inv.chosen {s : State} (h : Inv s) (ms : List Move) (o : Oracle) : Inv { s with schedule := ms, oracle := o } :=
  ⟨h.params, h.address, h.onZero, h.offMasked, h.unwired, h.chip, h.bus, h.ctrl, h.record, h.running, h.clearDue⟩

/-- A pair as the policy may leave it: on-count 0, off-count of 12 bits, and untouched where no channel is wired (R25). -/
def pairInForm (i : Fin 32) (t : Pair) : Prop := t.on = 0 ∧ t.off.toNat ≤ 4095 ∧ (Config.nWired ≤ i.val → t = failSafeTarget)

theorem policyEval_pairInForm {s : State} {i : Fin 32} (h : pairInForm i s.cache[i.val]) :
    pairInForm i (policyEval s).cache[i.val] := by
  by_cases hi : i.val < 16
  · rw [policyEval_cache_wired hi]
    obtain ⟨hon, hoff⟩ := target_range s i
    exact ⟨hon, hoff, fun hw => absurd hi (Nat.not_lt.2 hw)⟩
  · rw [policyEval_cache_unwired (Nat.not_lt.1 hi)]
    exact h

theorem Effect.keeps_pairInForm {i : Instr} {s t : State} (h : Effect i s t) {j : Fin 32} (hj : pairInForm j s.cache[j.val]) :
    pairInForm j t.cache[j.val] := by
  cases h with
  | policyEval => exact policyEval_pairInForm hj
  | loopPolicy => simpa using policyEval_pairInForm hj
  | _ => simpa using hj

theorem channelBurst_registers {s : State} {r : Byte} (a : BusAddr) (b₁ b₂ b₃ b₄ : Byte) (hp : s.params.ok = true)
    (hr : (channelOfReg s.params r).isSome = true) (h : Memory.registers s.chip) :
    Memory.registers (busWrite a [r, b₁, b₂, b₃, b₄] s).chip := by
  obtain ⟨c, hc⟩ := Option.isSome_iff_exists.1 hr
  obtain ⟨hlt, hreg⟩ := channelOfReg_eq_some.1 hc
  have := ok_channelBase hp
  exact busWrite_registers a r _ (by simp; omega) h

theorem registerWrite_registers {s : State} (a : BusAddr) (r v : Byte) (h : Memory.registers s.chip) :
    Memory.registers (busWrite a [r, v] s).chip :=
  busWrite_registers a r [v] (by have := r.isLt; simp; omega) h

theorem Effect.keeps_registers {i : Instr} {s t : State} (h : Effect i s t) (hp : s.params.ok = true)
    (hs : Memory.registers s.chip) : Memory.registers t.chip := by
  cases h with
  | frequency => exact programFrequency_registers _ _ _ hs
  | startup => simpa using programFrequency_registers _ _ _ hs
  | writeRegister | busWriteReg => exact registerWrite_registers _ _ _ hs
  | setChannelOutput => exact setChannelOutput_registers _ _ _ _ hp hs
  | policyEval => exact policyEval_registers s hp hs
  | loopPolicy => simpa using policyEval_registers s hp hs
  | busChannelBurst _ _ _ _ _ _ _ hr | busPolicyBurst _ _ _ _ _ hr => exact channelBurst_registers _ _ _ _ _ hp hr hs
  | _ => simpa using hs

/-! #### The history holds nothing `FOREIGN` -/

/-- No event of the list is `FOREIGN` (R91). -/
def noneForeign (p : Params) (es : List BusEvent) : Prop := ∀ e ∈ es, classify p e ≠ .foreign

theorem noneForeign_append {p : Params} {es fs : List BusEvent} (he : noneForeign p es) (hf : noneForeign p fs) :
    noneForeign p (es ++ fs) := by
  intro e h
  exact (List.mem_append.1 h).elim (he e) (hf e)

theorem noneForeign_singleton {p : Params} {e : BusEvent} (h : classify p e ≠ .foreign) : noneForeign p [e] := by
  simpa [noneForeign] using h

theorem programmingEvents_noneForeign (p : Params) (a : BusAddr) (old v : Byte) : noneForeign p (programmingEvents p a old v) := by
  simp [noneForeign, programmingEvents, classify]

theorem channelBurst_classify {p : Params} {r : Byte} (hr : (channelOfReg p r).isSome = true) (a : BusAddr) (b₁ b₂ b₃ b₄ : Byte) :
    classify p (.write a [r, b₁, b₂, b₃, b₄]) ≠ .foreign := by
  obtain ⟨c, hc⟩ := Option.isSome_iff_exists.1 hr
  simp [classify, hc]

theorem burstEvent_classify {p : Params} (h : p.ok = true) {c : Nat} (hc : c < 16) (a : BusAddr) (t : Pair) :
    classify p (burstEvent p a c t) ≠ .foreign := by
  rw [classify_burstEvent h hc]; exact nofun

theorem setChannelOutput_noneForeign {s : State} (a : BusAddr) (c : Nat) (on off : Count) (hp : s.params.ok = true)
    (hs : noneForeign s.params s.bus) : noneForeign s.params (setChannelOutput a c on off s).bus := by
  rw [setChannelOutput_bus]
  split
  · exact hs
  · rename_i hc
    have hburst := burstEvent_classify hp (Nat.not_le.1 hc) a ⟨on, off⟩
    rw [burstEvent_eq] at hburst
    exact noneForeign_append hs (noneForeign_singleton hburst)

theorem policyEval_noneForeign {s : State} (hp : s.params.ok = true) (hs : noneForeign s.params s.bus) :
    noneForeign s.params (policyEval s).bus := by
  rw [policyEval_bus_dueBurst]
  refine noneForeign_append hs fun e he => ?_
  obtain ⟨i, hi, rfl⟩ := mem_dueBursts he
  exact burstEvent_classify hp hi _ _

theorem programFrequency_noneForeign {s : State} (a : BusAddr) (f : Nat) (p : Byte) (hs : noneForeign s.params s.bus) :
    noneForeign s.params (programFrequency a f p s).bus := by
  rw [programFrequency_bus]
  exact noneForeign_append hs (programmingEvents_noneForeign _ _ _ _)

theorem Effect.keeps_noneForeign {i : Instr} {s t : State} (h : Effect i s t) (hp : s.params.ok = true)
    (hs : noneForeign s.params s.bus) : noneForeign s.params t.bus := by
  cases h with
  | frequency => exact programFrequency_noneForeign _ _ _ hs
  | startup => simpa using programFrequency_noneForeign _ _ _ hs
  | setChannelOutput => exact setChannelOutput_noneForeign _ _ _ _ hp hs
  | policyEval => exact policyEval_noneForeign hp hs
  | loopPolicy => simpa using policyEval_noneForeign hp hs
  | writeRegister | busWriteReg =>
    rw [busWrite_bus]
    exact noneForeign_append hs (noneForeign_singleton (by simp [classify]))
  | readRegister =>
    rw [State.setReturned_bus, busRead_bus]
    exact noneForeign_append hs (noneForeign_singleton (by simp [classify]))
  | busReadReg => exact noneForeign_append hs (noneForeign_singleton (by simp [classify]))
  | busChannelBurst _ _ _ _ _ _ _ hr | busPolicyBurst _ _ _ _ _ hr =>
    rw [busWrite_bus]
    exact noneForeign_append hs (noneForeign_singleton (channelBurst_classify hr _ _ _ _ _))
  | _ => simpa using hs

/-! #### The controller, the record and the phase -/

theorem Effect.keeps_consistent {i : Instr} {s t : State} (h : Effect i s t) (hs : s.ctrl.consistent) : t.ctrl.consistent := by
  cases h with
  | frequency a f s p _ _ hp => exact .inr ⟨naturalOf f, p, by simp, by simp, hp⟩
  | startup s p _ _ hp => exact .inr ⟨_, p, by simp, by simp, hp⟩
  | _ => simpa using hs

/-- `refused` says whether a refusal is recorded (R203). -/
def recordInForm (s : State) : Prop := s.refused = s.faults.any fun f => f.reason.isRefusal

theorem raise_recordInForm {s : State} (h : recordInForm s) (r : Reason) (c : Cause) : recordInForm (s.raise r c) := by
  unfold recordInForm at h ⊢
  simp [h]

theorem Effect.keeps_recordInForm {i : Instr} {s t : State} (h : Effect i s t) (hs : recordInForm s) : recordInForm t := by
  cases h with
  | recorded | startupRecorded => exact raise_recordInForm hs _ _
  | _ => simpa [recordInForm] using hs

/-- The frequency is programmed and the timer configured (R231, R232). -/
def configured (s : State) : Prop := s.ctrl.prescale ≠ none ∧ s.timerCompare = timerCompareOf s.params

/-- Only `STARTUP` leaves the phase `Startup`, and it configures the block. -/
theorem Effect.running {i : Instr} {s t : State} (h : Effect i s t) (ha : admittedIn i s.phase = true)
    (hs : s.phase ≠ .startup → configured s) (ht : t.phase ≠ .startup) : configured t := by
  have hphase (hi : movesPhase i = false) : s.phase ≠ .startup := fun e => ht ((h.phase hi).trans e)
  have hissued {q : Phase} (hi : issuePhase i = some q) (hq : q ≠ .startup) : s.phase ≠ .startup :=
    fun e => hq ((admittedIn_iff hi _).1 ha ▸ e)
  cases h with
  | frequency _ _ _ _ hstartup => exact absurd (by simpa using hstartup) ht
  | startupRecorded => simpa [configured] using hs (by simpa using ht)
  | startup => simp [configured]
  | loopTop | loopClear | loopPolicy | loopBusCheck | loopDispatch | loopSleep =>
    simpa [configured] using hs (hissued rfl nofun)
  | recorded => simpa [configured] using hs (by simpa using ht)
  | _ => simpa [configured] using hs (hphase rfl)

theorem Effect.clearDue {i : Instr} {s t : State} (h : Effect i s t) (hs : s.phase = .clear → s.cycleDue = true)
    (ht : t.phase = .clear) : t.cycleDue = true := by
  cases h with
  | loopTop => simpa using ht
  | loopBusCheck => rw [loopBusCheck_phase] at ht; split at ht <;> cases ht
  | timerTick => rfl
  | loopClear => cases ht
  | loopPolicy | loopDispatch | loopSleep | startup => simp at ht
  | _ => simpa using hs (by simpa using ht)

/-- Every operation in its phase keeps the invariant. -/
theorem Effect.keeps_inv {i : Instr} {s t : State} (h : Effect i s t) (ha : admittedIn i s.phase = true) (hs : Inv s) : Inv t := by
  have hpairs (j : Fin 32) : pairInForm j t.cache[j.val] :=
    h.keeps_pairInForm ⟨hs.onZero j, hs.offMasked j, hs.unwired j⟩
  exact {
    params := by rw [h.params]; exact hs.params
    address := by rw [h.busAddress, h.params]; exact hs.address
    onZero := fun j => (hpairs j).1
    offMasked := fun j => (hpairs j).2.1
    unwired := fun j => (hpairs j).2.2
    chip := h.keeps_registers hs.params hs.chip
    bus := by rw [h.params]; exact h.keeps_noneForeign hs.params hs.bus
    ctrl := h.keeps_consistent hs.ctrl
    record := h.keeps_recordInForm hs.record
    running := h.running ha hs.running
    clearDue := h.clearDue hs.clearDue }

/-- Settles O52: what a step runs is an operation in its phase, from a state that differs in nothing the invariant speaks of. -/
theorem stepKeepsInvariant : Obligations.StepKeepsInvariant := by
  intro s t hs h
  obtain ⟨i, ms, o, -, -, ha, -, -, he⟩ | ⟨_, ms, o, -, -, rfl⟩ := step_next h
  · exact he.keeps_inv ha (hs.chosen ms o)
  · exact hs.chosen ms o

end Sys2Proof.Machine

/-! ### The block left alone (R60, R232, R234 to R236) -/

namespace Sys2Proof.Machine

/-- With nothing but ticks and main-loop steps scheduled, one of the two moves. -/
theorem undisturbed_nextOperation {s : State} {i : Instr} (h : s.undisturbed) (hop : s.nextOperation = some i) :
    i = .timerTick ∨ i = s.phase.operation := by
  obtain ⟨s₁, hsel⟩ := nextOperation_eq_some.1 hop
  obtain ⟨hc, -⟩ := select_run hsel
  cases hs : s.schedule with
  | nil =>
    rw [select_unscheduled hc hs] at hsel
    split at hsel
    · exact .inl (issue_run hsel).1
    · exact .inr (issue_run hsel).1
  | cons m ms =>
    rcases h m (hs ▸ List.mem_cons_self) with rfl | rfl
    · rw [select_tick hc hs] at hsel
      exact .inl (issue_run hsel).1
    · rw [select_main hc hs] at hsel
      exact .inr (issue_run hsel).1

/-- A step schedules nothing but ticks and main-loop steps of its own. -/
theorem step_undisturbed {s t : State} (h : s.undisturbed) (ht : step s = .next t) : t.undisturbed := by
  intro m hm
  obtain ⟨_, ms, _, -, -, -, hms, -, he⟩ | ⟨p, ms, _, -, hs, rfl⟩ := step_next ht
  · rw [he.schedule] at hm
    rcases hms m hm with hm | rfl | rfl
    · exact h m hm
    · exact .inr rfl
    · exact .inl rfl
  · exact h m (hs ▸ List.mem_cons_of_mem _ hm)

/-- A step of an undisturbed block runs a tick or the operation of the phase. -/
theorem undisturbed_step {s t : State} (h : s.undisturbed) (ht : step s = .next t) :
    ∃ ms o, Effect .timerTick { s with schedule := ms, oracle := o } t ∨
      Effect s.phase.operation { s with schedule := ms, oracle := o } t := by
  obtain ⟨i, ms, o, hop, -, -, -, -, he⟩ | ⟨p, ms, _, -, hs, -⟩ := step_next ht
  · rcases undisturbed_nextOperation h hop with rfl | rfl
    · exact ⟨ms, o, .inl he⟩
    · exact ⟨ms, o, .inr he⟩
  · rcases h (.request p) (hs ▸ List.mem_cons_self) with hp | hp <;> cases hp

/-- The history is the programming of `TARGET_FREQ_HZ`, then only policy bursts (R232, R234 to R236). -/
def programmedThenBursts (s : State) : Prop :=
  ∃ old rest, s.bus = programmingEvents s.params s.params.chip old 6 ++ rest ∧ ∀ e ∈ rest, isPolicyBurst s.params e

theorem ownHistory_of_startup {s : State} (h : s.ownHistory) (hs : s.phase = .startup) : s.bus = [] ∧ s.ctrl.prescale = none :=
  h.elim (fun h => h.2) (fun h => absurd hs h.1)

theorem ownHistory_of_running {s : State} (h : s.ownHistory) (hs : s.phase ≠ .startup) : programmedThenBursts s :=
  h.elim (fun h => absurd h.1 hs) (fun h => h.2)

theorem policyEval_programmedThenBursts {s : State} (hp : s.params.ok = true) (ha : s.ctrl.busAddress = s.params.chip)
    (h : programmedThenBursts s) : programmedThenBursts (policyEval s) := by
  obtain ⟨old, rest, hbus, hrest⟩ := h
  refine ⟨old, rest ++ wiredChannels.filterMap s.dueBurst, ?_, fun e he => ?_⟩
  · rw [policyEval_bus_dueBurst, hbus, policyEval_params, List.append_assoc]
  · rw [policyEval_params]
    rcases List.mem_append.1 he with he | he
    · exact hrest e he
    · obtain ⟨i, hi, rfl⟩ := mem_dueBursts he
      exact isPolicyBurst_burstEvent hp ha hi

theorem startup_ownHistory {s t : State} (h : Effect .startup s t) (hs : s.phase = .startup) (hbus : s.bus = [])
    (hn : s.ctrl.prescale = none) : t.ownHistory := by
  cases h with
  | recorded _ _ _ _ hi => cases hi
  | startupRecorded _ hc => exact absurd hc (by simp [hs, hn])
  | startup _ p _ _ hp =>
    have hsix : p = 6 := Except.ok.inj (hp.symm.trans prescaleOf_startup)
    refine .inr ⟨by simp, s.drawByte.1, [], ?_, nofun⟩
    simp [programFrequency_bus, hbus, hsix]

/-- The operation of a phase past `Startup` stays past it, and only the policy's adds to the history. -/
theorem operation_programmedThenBursts {s t : State} (hs : s.phase ≠ .startup) (h : Effect s.phase.operation s t)
    (hp : s.params.ok = true) (ha : s.ctrl.busAddress = s.params.chip) (hh : programmedThenBursts s) :
    t.phase ≠ .startup ∧ programmedThenBursts t := by
  have hkeep (hi : usesBus s.phase.operation = false) : programmedThenBursts t := by
    unfold programmedThenBursts
    rw [h.bus hi, h.params]
    exact hh
  cases hq : s.phase with
  | startup => exact absurd hq hs
  | policy =>
    rw [hq] at h
    cases h with
    | recorded _ _ _ _ hi => cases hi
    | loopPolicy => exact ⟨by simp, by simpa [programmedThenBursts] using policyEval_programmedThenBursts hp ha hh⟩
  | _ =>
    rw [hq] at h hkeep
    refine ⟨fun e => ?_, hkeep rfl⟩
    have hfollows := h.phase_follows (by rw [hq]; exact admittedIn_operation _)
    rw [e, hq] at hfollows
    simp [Phase.follows] at hfollows

/-- Settles O53: a tick leaves the history, `STARTUP` writes its beginning, the policy's step adds bursts of its shape, and no
other operation of the main loop uses the bus. -/
theorem ownHistoryIsProgrammingThenBursts : Obligations.OwnHistoryIsProgrammingThenBursts := by
  intro s t hinv hun hown ht
  refine ⟨step_undisturbed hun ht, ?_⟩
  obtain ⟨ms, o, he | he⟩ := undisturbed_step hun ht
  · unfold State.ownHistory
    rw [he.phase rfl, he.bus rfl, he.ctrl ⟨nofun, nofun⟩, he.params]
    exact hown
  · by_cases hs : s.phase = .startup
    · obtain ⟨hbus, hn⟩ := ownHistory_of_startup hown hs
      have hstartup : s.phase.operation = .startup := by rw [hs]; rfl
      rw [hstartup] at he
      exact startup_ownHistory he hs hbus hn
    · exact .inr (operation_programmedThenBursts (s := { s with schedule := ms, oracle := o }) hs he hinv.params hinv.address
        (ownHistory_of_running hown hs))

end Sys2Proof.Machine

/-! ### Configuration and the timer's compare value (R8, R52, R202, R203, R205) -/

namespace Sys2Proof.Machine

theorem ite_some_eq_none {α : Type} {c : Prop} [Decidable c] {a : α} {o : Option α} :
    (if c then some a else o) = none ↔ ¬ c ∧ o = none := by
  split <;> simp [*]

/-- R205: the compare value is a natural number `k` that fits its register. -/
theorem compareValue_iff (p : Params) :
    p.compareValueIsNatural = true ∧ p.timerCompareValue < 2 ^ p.timerWidth ↔
      ∃ k, p.fCpu = 64000 * (k + 1) ∧ k < 2 ^ p.timerWidth := by
  simp only [Params.compareValueIsNatural, Params.timerCompareValue, Config.cycleUs, Config.timerDiv, Bool.and_eq_true,
    beq_iff_eq, decide_eq_true_eq]
  constructor
  · rintro ⟨⟨hmod, hpos⟩, hfits⟩
    exact ⟨_, by omega, hfits⟩
  · rintro ⟨k, hk, hfits⟩
    have hvalue : p.fCpu * 1000 / (64 * 1000000) - 1 = k := by omega
    exact ⟨by omega, hvalue ▸ hfits⟩

theorem inChannelWindow_iff (p : Params) (r : Nat) :
    p.inChannelWindow r = true ↔ p.channelBase ≤ r ∧ r ≤ p.channelBase + 63 := by
  simp only [Params.inChannelWindow, Config.stride, Config.nWired, Bool.and_eq_true, decide_eq_true_eq]
  omega

/-- The constraints of R8 and R205, one for each refusal of `violation`. -/
theorem ok_iff (p : Params) : p.ok = true ↔
    p.chipAddr ≤ 127 ∧ p.modeReg ≤ 255 ∧ p.prescaleReg ≤ 255 ∧ p.prescaleReg ≠ p.modeReg ∧ p.channelBase + 63 ≤ 255 ∧
    ¬ (p.channelBase ≤ p.modeReg ∧ p.modeReg ≤ p.channelBase + 63) ∧
    ¬ (p.channelBase ≤ p.prescaleReg ∧ p.prescaleReg ≤ p.channelBase + 63) ∧
    ∃ k, p.fCpu = 64000 * (k + 1) ∧ k < 2 ^ p.timerWidth := by
  rw [← compareValue_iff]
  simp only [Params.ok, Params.violation, Option.isNone_iff_eq_none, ite_some_eq_none, inChannelWindow_iff, Config.stride,
    Config.nWired, Bool.not_eq_false, not_or, Nat.not_lt, Nat.not_le, and_true, and_assoc, ne_eq]
  rfl

theorem violation_of_not_ok {p : Params} (h : p.ok = false) : ∃ name, p.violation = some name := by
  cases hv : p.violation with
  | none => simp [Params.ok, hv] at h
  | some name => exact ⟨name, rfl⟩

theorem configure_admitted {p : Params} (h : p.ok = true) : State.configure p = State.ofParams p := by
  rw [State.configure, Option.isNone_iff_eq_none.1 h]

theorem configure_refused {p : Params} {name : ParamName} (h : p.violation = some name) :
    State.configure p = (State.ofParams p).raise .paramConstraint (.parameter name) := by
  rw [State.configure, h]

theorem step_configurationRefused {s : State} (h : s.configurationRefused = true) : step s = .fault .configurationRefused := by
  simp [step, select, h]

/-- Settles O6: `violation` tests the constraints in turn; a broken one is recorded, and that record stops every step. -/
theorem configurationChecksParameters : Obligations.ConfigurationChecksParameters := by
  refine ⟨ok_iff, fun p => configure_admitted, fun p h => ?_⟩
  obtain ⟨name, hname⟩ := violation_of_not_ok h
  rw [configure_refused hname]
  exact ⟨name, hname, rfl, rfl, fun ms => step_configurationRefused rfl⟩

/-- Settles O7: `F_CPU` is `64000 * (k + 1)`, and the compare value is that `k`. -/
theorem timerCompareGivesOneMillisecond : Obligations.TimerCompareGivesOneMillisecond := by
  intro p h
  obtain ⟨-, -, -, -, -, -, -, k, hk, hfits⟩ := (ok_iff p).1 h
  have hvalue : timerCompareOf p = k := by
    simp only [timerCompareOf, Params.timerCompareValue, Config.cycleUs, Config.timerDiv]
    omega
  rw [hvalue]
  exact ⟨by omega, hfits⟩

end Sys2Proof.Machine

/-! ### The prescale function (R111, R117) -/

namespace Sys2Proof.Machine

theorem prescaleOf_rounded {f : Nat} (h : 1 ≤ f) :
    prescaleOf f = .ok (BitVec.ofInt 8 (clamp 0 255 (prescaleRounded f))) := if_neg (Nat.ne_of_gt h)

/-- R111 without division: the rounded value reaches `k` as long as `(k + 1/2) * f` is at most `OSC_HZ / (STEPS * CORR)`. -/
theorem le_prescaleRounded_iff {f : Nat} (h : 1 ≤ f) (k : Int) : k ≤ prescaleRounded f ↔ (576 * k + 288) * f ≤ 3906250 := by
  have hpos : (0 : Int) < (576 * f : Nat) := by omega
  have hprod : k * ((576 * f : Nat) : Int) = 576 * k * f := by push_cast; ring
  rw [prescaleRounded_eq h, Int.le_ediv_iff_mul_le hpos, hprod, add_mul]
  omega

theorem prescaleRounded_antitone {f g : Nat} (hf : 1 ≤ f) (hfg : f ≤ g) : prescaleRounded g ≤ prescaleRounded f := by
  have hg := (le_prescaleRounded_iff (hf.trans hfg) _).1 le_rfl
  refine (le_prescaleRounded_iff hf _).2 ?_
  rcases le_total 0 (576 * prescaleRounded g + 288) with hpos | hneg
  · exact (mul_le_mul_of_nonneg_left (Int.ofNat_le.2 hfg) hpos).trans hg
  · exact (mul_nonpos_of_nonpos_of_nonneg hneg (Int.natCast_nonneg f)).trans (by decide)

theorem clamp_mono {x y : Int} (h : x ≤ y) : clamp 0 255 x ≤ clamp 0 255 y := by unfold clamp; omega

theorem prescaleQuotient_eq {f : Nat} (h : 1 ≤ f) : prescaleQuotient f = 1953125 / (288 * (f : Rat)) - 1 := by
  have hf : (f : Rat) ≠ 0 := by exact_mod_cast Nat.ne_of_gt h
  unfold prescaleQuotient Config.oscHz Config.steps Config.corr
  push_cast
  field_simp
  ring

theorem exec_computePrescale {f : Rat} (h : domainRefusal (.computePrescale f) = none) (s : State) : exec (.computePrescale f) s =
    .next (orRaise (.computePrescale f) .caller s ((prescaleOf (naturalOf f)).map s.setReturned)) := by
  rw [exec, execComputePrescale, guardDomain_none h]

/-- A recorded fault leaves `refused` as it was (R203). -/
theorem State.raise_of_not_isRefusal {r : Reason} (h : r.isRefusal = false) (c : Cause) (s : State) :
    s.raise r c = { s with faults := s.faults ++ [⟨r, c⟩] } := by
  rw [State.raise, h, Bool.or_false]

/-- Settles O8: the byte is the clamped `prescaleRounded`, whose quotient is R111's in lowest terms. -/
theorem computePrescaleResult : Obligations.ComputePrescaleResult := by
  refine ⟨fun s f hf => ⟨BitVec.ofInt 8 (clamp 0 255 (prescaleRounded f)), ?exec, ?value⟩, fun s => ?zero⟩
  case exec =>
    rw [exec_computePrescale (checkNatural_natCast f), naturalOf_natCast, prescaleOf_rounded hf]
    rfl
  case value =>
    rw [prescaleByte_toNat, ← prescaleQuotient_eq hf]
    rfl
  case zero =>
    rw [exec_computePrescale rfl, ← State.raise_of_not_isRefusal rfl]
    rfl

/-- Settles O9: a tie would make 3906250, which is `2 * 5^9`, a multiple of 288. -/
theorem prescaleNeverTies : Obligations.PrescaleNeverTies := by
  intro f k hf htie
  have hden : ((576 * f : Nat) : Rat) ≠ 0 := by exact_mod_cast (show 576 * f ≠ 0 by omega)
  have hwhole : ((3906250 - 288 * f : Int) : Rat) = ((k + 1 : Int) : Rat) * ((576 * f : Nat) : Rat) := by
    rw [← div_eq_iff hden, ← prescaleQuotient_add_half hf, htie]
    push_cast
    ring
  have hint : (3906250 - 288 * f : Int) = (k + 1) * (576 * f : Nat) :=
    Int.cast_injective (hwhole.trans (by rw [Int.cast_mul, Int.cast_natCast]))
  have hmultiple : (3906250 : Int) = 288 * ((2 * k + 3) * f) := by
    push_cast at hint
    linarith
  have hdvd : (288 : Int) ∣ 3906250 := ⟨_, hmultiple⟩
  norm_num at hdvd

theorem prescaleOf_eq_iff {f : Nat} (h : 1 ≤ f) (b : Byte) :
    prescaleOf f = .ok b ↔ clamp 0 255 (prescaleRounded f) = b.toNat := by
  rw [prescaleOf_rounded h, Except.ok.injEq, ← BitVec.toNat_inj, ← Int.ofNat_inj, prescaleByte_toNat]

/-- Settles O10: rounding and clamping keep the order. -/
theorem prescaleNonIncreasing : Obligations.PrescaleNonIncreasing := by
  intro f g b c hf hfg hb hc
  have hclamp := clamp_mono (prescaleRounded_antitone hf hfg)
  rw [(prescaleOf_eq_iff hf b).1 hb, (prescaleOf_eq_iff (hf.trans hfg) c).1 hc] at hclamp
  exact Int.ofNat_le.1 hclamp

/-- Settles O11: each breakpoint is where `le_prescaleRounded_iff` holds for the byte and not for the next. -/
theorem prescaleBreakpoints : Obligations.PrescaleBreakpoints := by
  intro f hf
  have hbyte (b : Byte) (n : Int) (hb : b.toNat = n) : prescaleOf f = .ok b ↔ clamp 0 255 (prescaleRounded f) = n :=
    hb ▸ prescaleOf_eq_iff hf b
  rw [hbyte 255 255 rfl, hbyte 250 250 rfl, hbyte 67 67 rfl, hbyte 6 6 rfl, hbyte 0 0 rfl]
  have reaches := le_prescaleRounded_iff hf
  have h255 := reaches 255
  have h250 := reaches 250
  have h251 := reaches 251
  have h67 := reaches 67
  have h68 := reaches 68
  have h6 := reaches 6
  have h7 := reaches 7
  have h1 := reaches 1
  norm_num at h255 h250 h251 h67 h68 h6 h7 h1
  unfold clamp
  omega

end Sys2Proof.Machine

/-! ### `SET_FREQUENCY` and `STARTUP` (R112, R207, R231) -/

namespace Sys2Proof.Machine

/-- The sequence writes the history, the controller, the chip and the draws, and no other field. -/
theorem programFrequency_eq (a : BusAddr) (f : Nat) (p : Byte) (s : State) : programFrequency a f p s =
    { s with bus := s.bus ++ programmingEvents s.params a s.drawByte.1 p
             ctrl := ⟨s.ctrl.busAddress, some f, some p⟩
             chip := (programFrequency a f p s).chip, oracle := (programFrequency a f p s).oracle } := by
  ext1 <;> simp [programFrequency_bus]

/-- Settles O12: an admitted call is `programFrequency`, whose frame and whose registers are known. -/
theorem setFrequencyPrograms : Obligations.SetFrequencyPrograms := by
  intro s a f ha hf hs hn
  obtain ⟨p, hp⟩ : ∃ p, prescaleOf f = .ok p := ⟨_, prescaleOf_rounded hf⟩
  exact ⟨p, _, _, hp, (exec_setFrequency_admitted ha hs hn hp).trans (congrArg _ (programFrequency_eq ..)),
    programFrequency_chip_elsewhere f p, fun q => programFrequency_chip_other _ f p s⟩

theorem domainRefusal_setFrequency_none {a : Nat} (ha : a ≤ 127) (f : Nat) :
    domainRefusal (.setFrequency a (f : Rat)) = none := by
  simp [domainRefusal, checkAddress_none ha, checkNatural_natCast]

theorem exec_setFrequency_error {a f : Nat} {r : Reason} {s : State} (ha : a ≤ 127)
    (h : setFrequency (addressOf a) f s = .error r) :
    exec (.setFrequency a (f : Rat)) s = .next (s.raise r (.operation (.setFrequency a (f : Rat)) .caller)) := by
  rw [exec, execSetFrequency, guardDomain_none (domainRefusal_setFrequency_none ha f), naturalOf_natCast, h, orRaise]

theorem setFrequency_zero {a : BusAddr} {s : State} (hs : s.phase = .startup) (hn : s.ctrl.prescale = none) :
    setFrequency a 0 s = .error .freqZero := by
  simp [setFrequency, hs, hn, prescaleOf]

/-- Settles O14: the phase and the controller are looked at before the frequency, and either outcome is only recorded. -/
theorem setFrequencyRefused : Obligations.SetFrequencyRefused := by
  refine ⟨fun s a f ha h => ?late, fun s a ha hs hn => ?zero⟩
  case late => rw [exec_setFrequency_error ha (setFrequency_refused h), State.raise_of_isRefusal rfl]
  case zero =>
    rw [← State.raise_of_not_isRefusal rfl]
    exact exec_setFrequency_error (f := 0) ha (setFrequency_zero hs hn)

/-- What startup leaves once its frequency call has gone through: of the fields it changes, the error code, the table, the chip
and the draws are not its own to choose. -/
theorem startupRest_programFrequency (s : State) {t : State} (ht : t = startupRest (programFrequency s.params.chip 1000 6 s)) :
    t = { s with
      bus := s.bus ++ programmingEvents s.params s.params.chip s.drawByte.1 6
      ctrl := ⟨s.ctrl.busAddress, some 1000, some 6⟩, phase := .top, runState := s.params.initRunState
      nodeId := s.params.nodeId, timerCompare := timerCompareOf s.params, errorCode := t.errorCode, desired := t.desired
      chip := t.chip, oracle := t.oracle } := by
  subst ht
  ext1 <;> simp [programFrequency_bus]

/-- Settles O38: startup is the frequency sequence followed by `startupRest`, each with a lemma for every field. -/
theorem startupResult : Obligations.StartupResult := by
  intro s hs hn
  have hexec : exec .startup s = .next (startupRest (programFrequency s.params.chip 1000 6 s)) := by
    rw [exec, execStartup, startup, setFrequency_admitted hs hn prescaleOf_startup]
    rfl
  refine ⟨_, _, _, _, hexec.trans (congrArg _ (startupRest_programFrequency s rfl)), fun q hmode hprescale => ?_⟩
  rw [startupRest_chip]
  exact programFrequency_chip_other _ _ _ s hmode hprescale

/-- Settles O39: the refusal of the call is recorded for the main loop, which it stops. -/
theorem startupStopsOnRefusal : Obligations.StartupStopsOnRefusal := by
  intro s h
  refine ⟨s.raise .runtimeFrequencyChange (.operation (startupCall s) .mainLoop), ?_, State.raise_of_isRefusal rfl _ _, ?_⟩
  · rw [exec, execStartup, startup, setFrequency_refused h]
    rfl
  · rw [State.raise_stopped]
    exact Bool.or_true _

end Sys2Proof.Machine

/-! ### The driver's single transactions and the bus frames (R54, R82, R83, R113 to R115) -/

namespace Sys2Proof.Machine

/-- A write transaction puts one event on the bus, and its bytes land or not; nothing else changes. -/
theorem busWrite_result (a : BusAddr) (r : Byte) (ds : List Byte) (s : State) : ∃ chip oracle,
    busWrite a (r :: ds) s = { s with bus := s.bus ++ [.write a (r :: ds)], chip := chip, oracle := oracle } ∧
      WriteEffect s.params a r ds s.chip chip :=
  ⟨_, _, busWrite_eq a (r :: ds) s, busWrite_effect a r ds s⟩

/-- The same for an operation that completes with a write transaction. -/
theorem result_of_exec_busWrite {i : Instr} {a : BusAddr} {r : Byte} {ds : List Byte} {s : State}
    (h : exec i s = .next (busWrite a (r :: ds) s)) : ∃ chip oracle,
    exec i s = .next { s with bus := s.bus ++ [.write a (r :: ds)], chip := chip, oracle := oracle } ∧
      WriteEffect s.params a r ds s.chip chip := by
  obtain ⟨chip, oracle, heq, heffect⟩ := busWrite_result a r ds s
  exact ⟨chip, oracle, h.trans (congrArg _ heq), heffect⟩

theorem exec_writeRegister_admitted {a r v : Nat} (ha : a ≤ 127) (hr : r ≤ 255) (hv : v ≤ 255) (s : State) :
    exec (.writeRegister a r v) s = .next (busWrite (BitVec.ofNat 7 a) [BitVec.ofNat 8 r, BitVec.ofNat 8 v] s) := by
  have hdomain : domainRefusal (.writeRegister a r v) = none := by
    simp [domainRefusal, checkAddress_none ha, checkByte_none hr, checkByte_none hv]
  rw [exec, execWriteRegister, guardDomain_none hdomain]
  rfl

/-- Settles O15: an admitted `WRITE_REGISTER` is one write transaction. -/
theorem writeRegisterResult : Obligations.WriteRegisterResult :=
  fun s _ _ _ ha hr hv => result_of_exec_busWrite (exec_writeRegister_admitted ha hr hv s)

theorem countOf_toNat {v : Nat} (h : v ≤ 65535) : (countOf v).toNat = v := Nat.mod_eq_of_lt (Nat.lt_succ_of_le h)

/-- The burst of two counts given as numbers. -/
theorem exec_setChannelOutput_burst {a c on off : Nat} (ha : a ≤ 127) (hc : c < 16) (hon : on ≤ 65535) (hoff : off ≤ 65535)
    (s : State) : exec (.setChannelOutput a (c : Rat) on off) s =
      .next (busWrite (BitVec.ofNat 7 a) [BitVec.ofNat 8 (s.params.channelBase + 4 * c), BitVec.ofNat 8 (on % 256),
        BitVec.ofNat 8 (on / 256), BitVec.ofNat 8 (off % 256), BitVec.ofNat 8 (off / 256)] s) := by
  rw [exec_setChannelOutput_admitted ha hon hoff, setChannelOutput_wired hc, countBytes_eq, countOf_toNat hon, countOf_toNat hoff]
  rfl

theorem burstEvent_countOf {on off : Nat} (hon : on ≤ 65535) (hoff : off ≤ 65535) (p : Params) (a : BusAddr) (c : Nat) :
    burstEvent p a c ⟨countOf on, countOf off⟩ = .write a [BitVec.ofNat 8 (p.channelBase + 4 * c),
      BitVec.ofNat 8 (on % 256), BitVec.ofNat 8 (on / 256), BitVec.ofNat 8 (off % 256), BitVec.ofNat 8 (off / 256)] := by
  rw [burstEvent, countOf_toNat hon, countOf_toNat hoff]

/-- Settles O16: an admitted call on a wired channel is one write transaction, whose frame is the burst of R86 and R87. -/
theorem setChannelOutputResult : Obligations.SetChannelOutputResult := by
  intro s a c on off ha hc hon hoff
  have hburst := burstEvent_countOf hon hoff s.params (BitVec.ofNat 7 a) c
  simp only [countOf] at hburst
  rw [hburst]
  exact result_of_exec_busWrite (exec_setChannelOutput_burst ha hc hon hoff s)

theorem drawByte_eq (s : State) : s.drawByte.2 = { s with oracle := s.drawByte.2.oracle } := by
  unfold State.drawByte; split <;> rfl

theorem exec_readRegister_admitted {a r : Nat} (ha : a ≤ 127) (hr : r ≤ 255) (s : State) : exec (.readRegister a r) s =
    .next ((busReadReturning (BitVec.ofNat 7 a) (BitVec.ofNat 8 r) s.drawByte.1 s.drawByte.2).setReturned s.drawByte.1) := by
  have hdomain : domainRefusal (.readRegister a r) = none := by
    simp [domainRefusal, checkAddress_none ha, checkByte_none hr]
  rw [exec, execReadRegister, guardDomain_none hdomain]
  rfl

/-- Settles O18: the draw takes one byte off the oracle, the read appends its event. -/
theorem readRegisterResult : Obligations.ReadRegisterResult := by
  refine ⟨fun s a r ha hr => ?_, fun s v vs h => by rw [State.drawByte, h]⟩
  rw [exec_readRegister_admitted ha hr, drawByte_eq]
  rfl

/-! #### Domains -/

/-- Settles O19: in each row the first broken domain in R207's order is what `domainRefusal` names, and it is only recorded. -/
theorem domainRefusals : Obligations.DomainRefusals := by
  intro s i r h
  suffices hr : domainRefusal i = some r ∧ r.isRefusal = true by
    rw [exec_of_domainRefusal hr.1, State.raise_of_isRefusal hr.2]
  cases i with
  | computePrescale f =>
    obtain ⟨hf, rfl⟩ := h
    exact ⟨checkNatural_some hf, rfl⟩
  | setFrequency a f =>
    rcases h with ⟨ha, rfl⟩ | ⟨ha, hf, rfl⟩
    · simp [domainRefusal, checkAddress_some ha, Reason.isRefusal]
    · simp [domainRefusal, checkAddress_none ha, checkNatural_some hf, Reason.isRefusal]
  | writeRegister a reg v =>
    rcases h with ⟨ha, rfl⟩ | ⟨ha, hbytes, rfl⟩
    · simp [domainRefusal, checkAddress_some ha, Reason.isRefusal]
    · obtain hreg | ⟨hreg, hv⟩ : 255 < reg ∨ reg ≤ 255 ∧ 255 < v := by omega
      · simp [domainRefusal, checkAddress_none ha, checkByte_some hreg, Reason.isRefusal]
      · simp [domainRefusal, checkAddress_none ha, checkByte_none hreg, checkByte_some hv, Reason.isRefusal]
  | setChannelOutput a c on off =>
    rcases h with ⟨ha, rfl⟩ | ⟨ha, hcounts, rfl⟩ | ⟨ha, hon, hoff, hc, rfl⟩
    · simp [domainRefusal_setChannelOutput_some (.inl ha), ha, Reason.isRefusal]
    · simp [domainRefusal_setChannelOutput_some (.inr hcounts), Nat.not_lt.2 ha, Reason.isRefusal]
    · simp [domainRefusal, checkAddress_none ha, checkCount_none hon, checkCount_none hoff, checkNatural_some hc,
        Reason.isRefusal]
  | readRegister a reg =>
    rcases h with ⟨ha, rfl⟩ | ⟨ha, hreg, rfl⟩
    · simp [domainRefusal, checkAddress_some ha, Reason.isRefusal]
    · simp [domainRefusal, checkAddress_none ha, checkByte_some hreg, Reason.isRefusal]
  | _ => exact h.elim

/-! #### Frames -/

theorem burstFrame_wired {s : State} {c : Nat} {r : Byte} (hc : c < 16) (hr : r.toNat = s.params.channelBase + 4 * c) (a : BusAddr)
    (ds : List Byte) : burstFrame a r ds s = .next (busWrite a (r :: ds) s) :=
  if_pos (by rw [channelOfReg_eq_some.2 ⟨hc, hr⟩]; rfl)

theorem burstFrame_foreign {s : State} {r : Byte} (h : ∀ c < 16, r.toNat ≠ s.params.channelBase + 4 * c) (a : BusAddr)
    (ds : List Byte) : burstFrame a r ds s = .refused .foreignFrame :=
  if_neg (by rw [channelOfReg_eq_none h]; exact nofun)

/-- Settles O21: each frame is one transaction; a burst asks first whether byte 0 starts a wired channel's block. -/
theorem busFramesResult : Obligations.BusFramesResult := by
  refine ⟨fun s a r v => result_of_exec_busWrite rfl, fun s a c r b₁ b₂ b₃ b₄ hc hr => ?channel,
    fun s a c r b₃ b₄ hc hr => ?policy, fun s a r v => rfl, fun s a r b₁ b₂ b₃ b₄ h => burstFrame_foreign h a _,
    fun s a r b₃ b₄ h => burstFrame_foreign h a _⟩
  case channel => exact result_of_exec_busWrite (burstFrame_wired hc hr a _)
  case policy =>
    rw [BitVec.ofNat_toNat]
    exact result_of_exec_busWrite (burstFrame_wired hc hr a _)

theorem exec_decodeBurst (a : BusAddr) (r b₁ b₂ b₃ b₄ : Byte) (s : State) :
    exec (decodeBurst a r b₁ b₂ b₃ b₄) s = exec (.busChannelBurst a r b₁ b₂ b₃ b₄) s := by
  unfold decodeBurst
  split
  case isTrue h =>
    obtain ⟨rfl, rfl, hlt⟩ := h
    have hbyte : (BitVec.ofNat 4 b₄.toNat).setWidth 8 = b₄ := by
      apply BitVec.eq_of_toNat_eq
      simp only [BitVec.toNat_setWidth, BitVec.toNat_ofNat]
      omega
    show burstFrame a r [0, 0, b₃, _] s = burstFrame a r [0, 0, b₃, b₄] s
    rw [hbyte]
  case isFalse => rfl

/-- Settles O22: both sides of each equation are the same transaction. -/
theorem operationsAreTheirFrames : Obligations.OperationsAreTheirFrames := by
  refine ⟨fun s a r v => fun ha hr hv => exec_writeRegister_admitted ha hr hv s, fun s a c on off hp ha hc hon hoff => ?burst,
    fun s a r ha hr => exec_readRegister_admitted ha hr s, fun i s => ?shared⟩
  case burst => exact (exec_setChannelOutput_burst ha hc hon hoff s).trans (burstFrame_wired hc (chanReg_toNat hp hc) _ _).symm
  case shared =>
    cases i with
    | busChannelBurst a r b₁ b₂ b₃ b₄ => exact exec_decodeBurst a r b₁ b₂ b₃ b₄ s
    | _ => rfl

end Sys2Proof.Machine

/-! ### Which bytes of a write land (R54) -/

namespace Sys2Proof.Machine

theorem drawLanding_cons {s : State} {b : Bool} {bs : List Bool} (h : s.oracle.landed = b :: bs) :
    s.drawLanding = (b, { s with oracle := { s.oracle with landed := bs } }) := by
  rw [State.drawLanding, h]

/-- The state after the first of some data bytes, whose draw is `b`. -/
def State.afterByte (s : State) (r : Nat) (d : Byte) (b : Bool) (bs : List Bool) : State :=
  { s with oracle := { s.oracle with landed := bs }, chip := if b then Memory.write s.chip r d else s.chip }

theorem landBytes_draw {s : State} {b : Bool} {bs : List Bool} (h : s.oracle.landed = b :: bs) (r : Nat) (d : Byte) (ds : List Byte) :
    landBytes r (d :: ds) s = landBytes (r + 1) ds (s.afterByte r d b bs) := by
  rw [landBytes_cons, drawLanding_cons h]
  cases b <;> rfl

/-- A write takes one draw for each data byte. -/
theorem landBytes_landed {hits rest : List Bool} {ds : List Byte} (hlen : hits.length = ds.length) {s : State}
    (h : s.oracle.landed = hits ++ rest) (r : Nat) : (landBytes r ds s).oracle.landed = rest := by
  induction ds generalizing hits s r with
  | nil =>
    obtain rfl := List.length_eq_zero_iff.1 hlen
    exact h
  | cons d ds ih =>
    obtain ⟨b, bs, rfl⟩ := List.exists_cons_of_length_eq_add_one hlen
    rw [landBytes_draw h]
    exact ih (Nat.succ.inj hlen) (s := s.afterByte r d b (bs ++ rest)) rfl _

/-- The draw decides for each byte whether its register takes it. -/
theorem landBytes_read {hits rest : List Bool} {ds : List Byte} (hlen : hits.length = ds.length) {s : State}
    (h : s.oracle.landed = hits ++ rest) (r : Nat) {j : Nat} (hj : j < ds.length) (hj' : j < hits.length) :
    Memory.read (landBytes r ds s).chip (r + j) = if hits[j] then ds[j] else Memory.read s.chip (r + j) := by
  induction ds generalizing hits s r j with
  | nil => exact absurd hj (Nat.not_lt_zero j)
  | cons d ds ih =>
    obtain ⟨b, bs, rfl⟩ := List.exists_cons_of_length_eq_add_one hlen
    rw [landBytes_draw h]
    cases j with
    | zero =>
      refine ((landBytes_lands (r + 1) ds _).1 r (.inl (Nat.lt_succ_self r))).trans ?_
      cases b <;> simp [State.afterByte]
    | succ j =>
      have hother : Memory.read (s.afterByte r d b (bs ++ rest)).chip (r + 1 + j) = Memory.read s.chip (r + 1 + j) := by
        cases b
        · rfl
        · exact Memory.read_write_other _ _ (by omega)
      rw [show r + (j + 1) = r + 1 + j by omega]
      exact (ih (Nat.succ.inj hlen) (s := s.afterByte r d b (bs ++ rest)) rfl (r + 1) (Nat.lt_of_succ_lt_succ hj)
        (Nat.lt_of_succ_lt_succ hj')).trans (by rw [hother]; rfl)

/-- Where no byte lands the chip is as it was. -/
theorem landBytes_lost {rest : List Bool} {ds : List Byte} {s : State}
    (h : s.oracle.landed = List.replicate ds.length false ++ rest) (r : Nat) : (landBytes r ds s).chip = s.chip := by
  induction ds generalizing s r with
  | nil => rfl
  | cons d ds ih =>
    rw [landBytes_draw h]
    exact ih (s := s.afterByte r d false _) rfl _

theorem busWrite_chip (r : Byte) (ds : List Byte) (s : State) :
    busWrite s.params.chip (r :: ds) s = landBytes r.toNat ds (s.appendEvent (.write s.params.chip (r :: ds))) := if_pos rfl

/-- Settles O20: a write to the chip is `landBytes`, which asks the draws in turn and touches no register outside the range. -/
theorem bytesLandIndependently : Obligations.BytesLandIndependently := by
  intro s r data hits rest hlen h
  rw [busWrite_chip]
  exact ⟨fun j hj hj' => landBytes_read (s := s.appendEvent _) hlen h r.toNat hj hj',
    (landBytes_lands r.toNat data (s.appendEvent _)).1⟩

end Sys2Proof.Machine

/-! ### The fail-safe policy (R142 to R154) -/

namespace Sys2Proof.Machine

/-- Settles O24: `POLICY_EVAL` is `policyEval`, and `LOOP_POLICY` moves the phase after it. -/
theorem policyAppliesTargets : Obligations.PolicyAppliesTargets :=
  fun s => ⟨policyEval s, rfl, policyEval_outcome s, rfl⟩

theorem policyEval_unchanged {s : State} (h : ∀ i : Fin 32, i.val < 16 → s.cache[i.val] = s.target i) : policyEval s = s := by
  rw [policyEval_eq_policyLoop]
  exact policyLoop_unchanged _ _ s fun i _ hi => (targetOf_eq s i).trans (h i hi).symm

theorem loopPolicy_unchanged {s : State} (h : ∀ i : Fin 32, i.val < 16 → s.cache[i.val] = s.target i) :
    loopPolicy s = { s with phase := .busCheck } := by
  rw [loopPolicy, policyEval_unchanged h]
  rfl

/-- Settles O27: every gate finds its pair at the target. -/
theorem unchangedTargetsEmitNothing : Obligations.UnchangedTargetsEmitNothing :=
  fun _ h => ⟨congrArg _ (policyEval_unchanged h), congrArg _ (loopPolicy_unchanged h)⟩

theorem policyEval_target (s : State) (i : Fin 32) : (policyEval s).target i = s.target i := by
  simp [State.target]

/-- Settles O26: after an evaluation every wired pair is at the target, which the evaluation does not move. -/
theorem policyIsIdempotent : Obligations.PolicyIsIdempotent := by
  intro s t h
  cases h
  have hfixed : policyEval (policyEval s) = policyEval s :=
    policyEval_unchanged fun i hi => by rw [policyEval_target, policyEval_cache_wired hi]
  exact congrArg Host.Outcome.next hfixed

/-- What an evaluation emits: the bursts of the channels whose pair is not at the target. -/
theorem dueBursts_eq_map (s : State) : wiredChannels.filterMap s.dueBurst =
    (wiredChannels.filter fun i => s.target i ≠ s.cache[i.val]).map fun i =>
      burstEvent s.params s.ctrl.busAddress i.val (s.target i) := by
  rw [← List.filterMap_eq_map, List.filterMap_filter]
  refine List.filterMap_congr fun i _ => ?_
  by_cases h : s.target i = s.cache[i.val] <;> simp [State.dueBurst, h]

/-- Disabled outputs have one target (R144). -/
theorem target_of_disabled {s : State} (h : s.runState = .stopped ∨ s.errorCode ≠ 0) (i : Fin 32) : s.target i = ⟨0, 0⟩ :=
  if_neg fun ⟨hrun, herror⟩ => h.elim hrun (· herror)

/-- Settles O28: with outputs disabled every target is `(0,0)`, so the due bursts are the off bursts of the other pairs, and once all
pairs are there no evaluation changes anything. -/
theorem failSafeEmitsOffBurstsOnce : Obligations.FailSafeEmitsOffBurstsOnce := by
  intro s h
  have hoff (i : Fin 32) (hi : i.val < 16) : (loopPolicy s).cache[i.val] = ⟨0, 0⟩ := by
    simp only [loopPolicy_cache]
    rw [policyEval_cache_wired hi, target_of_disabled h]
  refine ⟨loopPolicy s, rfl, hoff, ?bursts, fun u hu hdisabled => congrArg _ (loopPolicy_unchanged fun i hi => ?later)⟩
  case bursts =>
    rw [loopPolicy_bus, policyEval_bus_dueBurst, dueBursts_eq_map]
    simp only [target_of_disabled h, ne_comm (a := (⟨0, 0⟩ : Pair))]
    rfl
  case later => simp only [hu, hoff i hi, target_of_disabled hdisabled]

/-! #### The off bursts at the chip (R54, R153) -/

/-- Channels that are not wired play no part in the loop. -/
theorem policyLoop_filter_wired (en : Bool) (is : List (Fin 32)) (s : State) :
    policyLoop en (is.filter fun i => i.val < 16) s = policyLoop en is s := by
  induction is generalizing s with
  | nil => rfl
  | cons i is ih =>
    by_cases hi : i.val < 16
    · rw [List.filter_cons_of_pos (by simpa using hi), policyLoop_cons, policyLoop_cons, ih]
    · rw [List.filter_cons_of_neg (by simpa using hi), policyLoop_cons, policyChannel_unwired (Nat.not_lt.1 hi), ih]

theorem policyEval_of_disabled {s : State} (h : s.runState = .stopped ∨ s.errorCode ≠ 0) :
    policyEval s = policyLoop false wiredChannels s := by
  have hdisabled : enabled s.runState s.errorCode = false :=
    Bool.eq_false_iff.2 fun he => h.elim ((enabled_iff _ _).1 he).1 (· ((enabled_iff _ _).1 he).2)
  rw [policyEval_eq_policyLoop, hdisabled]
  exact (policyLoop_filter_wired false _ s).symm

/-- A disabled channel whose pair is not at `(0,0)` writes four zero bytes to its registers. -/
theorem policyChannel_off {i : Fin 32} {s : State} (hi : i.val < 16) (ha : s.ctrl.busAddress = s.params.chip)
    (hc : s.cache[i.val] ≠ ⟨0, 0⟩) :
    policyChannel false s i = (busWrite s.params.chip [chanReg s.params i.val, 0, 0, 0, 0] s).setCache i ⟨0, 0⟩ := by
  rw [policyChannel_wired hi]
  show gate i ⟨0, 0⟩ s = _
  rw [gate_change hc.symm, setChannelOutput_wired hi, ha]
  rfl

theorem policyChannel_off_already {i : Fin 32} {s : State} (hi : i.val < 16) (hc : s.cache[i.val] = ⟨0, 0⟩) :
    policyChannel false s i = s := by
  rw [policyChannel_wired hi]
  exact gate_same hc.symm

/-- A disabled channel takes four draws or none. -/
theorem policyChannel_off_landed {i : Fin 32} {s : State} {b : Bool} {n : Nat} {rest : List Bool} (hi : i.val < 16)
    (ha : s.ctrl.busAddress = s.params.chip) (hn : 4 ≤ n) (h : s.oracle.landed = List.replicate n b ++ rest) :
    ∃ m, n ≤ m + 4 ∧ (policyChannel false s i).oracle.landed = List.replicate m b ++ rest := by
  by_cases hc : s.cache[i.val] = ⟨0, 0⟩
  · exact ⟨n, by omega, by rw [policyChannel_off_already hi hc, h]⟩
  · obtain ⟨m, rfl⟩ := Nat.exists_eq_add_of_le hn
    rw [List.replicate_add, List.append_assoc] at h
    refine ⟨m, by omega, ?_⟩
    rw [policyChannel_off hi ha hc, State.setCache_oracle, busWrite_chip]
    exact landBytes_landed (s := s.appendEvent _) (by simp) h _

/-- Where the four bytes of an off burst land, the registers of its channel hold 0. -/
theorem policyChannel_off_lands {i : Fin 32} {s : State} {n : Nat} {rest : List Bool} (hi : i.val < 16)
    (ha : s.ctrl.busAddress = s.params.chip) (hc : s.cache[i.val] ≠ ⟨0, 0⟩) (hn : 4 ≤ n)
    (h : s.oracle.landed = List.replicate n true ++ rest) {k : Nat} (hk : k < 4) :
    Memory.read (policyChannel false s i).chip ((chanReg s.params i.val).toNat + k) = 0 := by
  obtain ⟨m, rfl⟩ := Nat.exists_eq_add_of_le hn
  rw [List.replicate_add, List.append_assoc] at h
  rw [policyChannel_off hi ha hc, State.setCache_chip, busWrite_chip]
  refine (landBytes_read (s := s.appendEvent _) (ds := List.replicate 4 0) (by simp) h _ (by simpa using hk)
    (by simpa using hk)).trans ?_
  rw [List.getElem_replicate, List.getElem_replicate]
  rfl

theorem policyChannel_off_lost {i : Fin 32} {s : State} {n : Nat} {rest : List Bool} (hi : i.val < 16)
    (ha : s.ctrl.busAddress = s.params.chip) (hn : 4 ≤ n) (h : s.oracle.landed = List.replicate n false ++ rest) :
    (policyChannel false s i).chip = s.chip := by
  by_cases hc : s.cache[i.val] = ⟨0, 0⟩
  · rw [policyChannel_off_already hi hc]
  · obtain ⟨m, rfl⟩ := Nat.exists_eq_add_of_le hn
    rw [List.replicate_add, List.append_assoc] at h
    rw [policyChannel_off hi ha hc, State.setCache_chip, busWrite_chip]
    exact landBytes_lost (ds := [0, 0, 0, 0]) (s := s.appendEvent _) h _

theorem policyLoop_off_lost {is : List (Fin 32)} {s : State} {n : Nat} {rest : List Bool} (hw : ∀ i ∈ is, i.val < 16)
    (ha : s.ctrl.busAddress = s.params.chip) (hn : 4 * is.length ≤ n)
    (h : s.oracle.landed = List.replicate n false ++ rest) : (policyLoop false is s).chip = s.chip := by
  induction is generalizing s n with
  | nil => rfl
  | cons i is ih =>
    rw [List.length_cons] at hn
    have hi := hw i List.mem_cons_self
    obtain ⟨m, hm, hlanded⟩ := policyChannel_off_landed hi ha (by omega) h
    rw [policyLoop_cons, ih (fun j hj => hw j (List.mem_cons_of_mem _ hj)) (by simpa using ha) (by omega) hlanded]
    exact policyChannel_off_lost hi ha (by omega) h

/-- The four registers of two wired channels lie apart (R86). -/
theorem chanReg_apart {p : Params} (hp : p.ok = true) {i j : Nat} (hi : i < 16) (hj : j < 16) (hij : i ≠ j) {k : Nat} (hk : k < 4) :
    (chanReg p i).toNat + k < (chanReg p j).toNat ∨ (chanReg p j).toNat + 4 ≤ (chanReg p i).toNat + k := by
  rw [chanReg_toNat hp hi, chanReg_toNat hp hj]
  omega

/-- Where every byte lands, the registers of each channel that was not off hold 0, and no other channel's burst touches them. -/
theorem policyLoop_off_lands {is : List (Fin 32)} {s : State} {n : Nat} {rest : List Bool} (hp : s.params.ok = true)
    (hnodup : is.Nodup) (hw : ∀ i ∈ is, i.val < 16) (ha : s.ctrl.busAddress = s.params.chip) (hn : 4 * is.length ≤ n)
    (h : s.oracle.landed = List.replicate n true ++ rest) {i : Fin 32} (hi : i ∈ is) (hc : s.cache[i.val] ≠ ⟨0, 0⟩) {k : Nat}
    (hk : k < 4) : Memory.read (policyLoop false is s).chip ((chanReg s.params i.val).toNat + k) = 0 := by
  induction is generalizing s n with
  | nil => exact absurd hi List.not_mem_nil
  | cons j is ih =>
    rw [List.length_cons] at hn
    obtain ⟨hfresh, hrest⟩ := List.nodup_cons.1 hnodup
    have hj := hw j List.mem_cons_self
    have hwtail (l : Fin 32) (hl : l ∈ is) : l.val < 16 := hw l (List.mem_cons_of_mem _ hl)
    rw [policyLoop_cons]
    rcases List.mem_cons.1 hi with rfl | hi
    · refine (policyLoop_chip false is _ hrest fun l hl hlw _ => ?_).trans (policyChannel_off_lands hj ha hc (by omega) h hk)
      have hne : i ≠ l := fun e => hfresh (e ▸ hl)
      simpa using chanReg_apart hp hj hlw (Fin.val_ne_of_ne hne) hk
    · obtain ⟨m, hm, hlanded⟩ := policyChannel_off_landed hj ha (by omega) h
      have hne : i ≠ j := fun e => hfresh (e ▸ hi)
      have hkept : (policyChannel false s j).cache[i.val] = s.cache[i.val] := by rw [policyChannel_cache]; simp [hne]
      simpa using ih (by simpa using hp) hrest hwtail (by simpa using ha) (by omega) hlanded hi (hkept ▸ hc)

theorem wiredChannels_nodup : wiredChannels.Nodup := (List.nodup_finRange 32).filter _

theorem wiredChannels_length : wiredChannels.length = 16 := by decide

/-- Settles O29: an evaluation with outputs disabled is the loop of off bursts over 16 channels, which takes at most 64 draws. -/
theorem failSafeReachesTheChipWhereBytesLand : Obligations.FailSafeReachesTheChipWhereBytesLand := by
  intro s rest hp ha h
  have hwired (i : Fin 32) (hi : i ∈ wiredChannels) : i.val < 16 := mem_wiredChannels.1 hi
  refine ⟨fun hlanded => ⟨_, rfl, fun i hi hc k hk => ?lands⟩, fun hlanded => ⟨_, rfl, ?lost, fun i hi => ?pairs⟩⟩
  case lands =>
    rw [policyEval_of_disabled h, ← chanReg_toNat hp hi]
    exact policyLoop_off_lands hp wiredChannels_nodup hwired ha (by rw [wiredChannels_length]) hlanded
      (mem_wiredChannels.2 hi) hc hk
  case lost =>
    rw [policyEval_of_disabled h]
    exact policyLoop_off_lost hwired ha (by rw [wiredChannels_length]) hlanded
  case pairs => rw [policyEval_cache_wired hi, target_of_disabled h]

/-! #### The shape of what an evaluation emits (R88, R118, R151) -/

/-- A due burst as its channel, the low byte of the off-count and the low nibble of its high byte. -/
def State.burstParts (s : State) (i : Fin 32) : Nat × Byte × BitVec 4 :=
  (i.val, BitVec.ofNat 8 ((s.target i).off.toNat % 256), BitVec.ofNat 4 ((s.target i).off.toNat / 256))

theorem burstEvent_target (s : State) (i : Fin 32) : burstEvent s.params s.ctrl.busAddress i.val (s.target i) =
    .write s.ctrl.busAddress [BitVec.ofNat 8 (s.params.channelBase + 4 * i.val), 0, 0, (s.burstParts i).2.1,
      BitVec.ofNat 8 (s.burstParts i).2.2.toNat] := by
  obtain ⟨hon, hoff⟩ := target_range s i
  have hnibble : (BitVec.ofNat 4 ((s.target i).off.toNat / 256)).toNat = (s.target i).off.toNat / 256 := by
    rw [BitVec.toNat_ofNat]; omega
  simp [burstEvent, State.burstParts, hon, hnibble]

theorem wiredChannels_pairwise_lt : wiredChannels.Pairwise (· < ·) := (List.pairwise_lt_finRange 32).filter _

/-- Settles O30: the due bursts are those of a sublist of the wired channels, each with on-count 0 and an off-count of 12 bits. -/
theorem policyEmitsPolicyBursts : Obligations.PolicyEmitsPolicyBursts := by
  intro s t hp h
  cases h
  refine ⟨(wiredChannels.filter fun i => s.target i ≠ s.cache[i.val]).map s.burstParts, ?count, ?ascending, ?bus,
    fun i c d hmem => ?shape⟩
  case count =>
    rw [List.length_map, ← wiredChannels_length]
    exact List.length_filter_le _ _
  case ascending =>
    rw [List.map_map]
    exact List.pairwise_map.2 (wiredChannels_pairwise_lt.filter _)
  case bus =>
    rw [policyEval_bus_dueBurst, dueBursts_eq_map, List.map_map]
    exact congrArg _ (List.map_congr_left fun i _ => burstEvent_target s i)
  case shape =>
    obtain ⟨j, hj, hparts⟩ := List.mem_map.1 hmem
    have hchannel : j.val = i := congrArg Prod.fst hparts
    have hi : i < 16 := hchannel ▸ mem_wiredChannels.1 (List.mem_filter.1 hj).1
    refine ⟨hi, chanReg s.params i, chanReg_toNat hp hi, ?_, ?_⟩
    · rw [BitVec.ofNat_toNat]
      exact congrArg Except.ok (decodeBurst_policy _ _ c d)
    · show (channelOfReg s.params (chanReg s.params i)).isSome = true
      rw [channelOfReg_chanReg hp hi]
      rfl

end Sys2Proof.Machine

/-! ### Which operation a step runs, and where it stops (R24, R60, R81, R170, R203) -/

namespace Sys2Proof.Machine

theorem step_of_issue {i : Instr} {s s₁ : State} (hsel : select s = issue i s₁) (hs : s₁.stopped (issuer i) = false)
    (ha : admittedIn i s₁.phase = true) : step s = exec i s₁ :=
  step_of_select (hsel.trans (issue_admitted hs ha))

theorem step_of_issue_stopped {i : Instr} {s s₁ : State} (hsel : select s = issue i s₁) (hs : s₁.stopped (issuer i) = true) :
    step s = .fault (.agentStopped (issuer i)) := by
  rw [step, hsel, issue_stopped hs]

theorem step_of_issue_outside {i : Instr} {s s₁ : State} (hsel : select s = issue i s₁) (hs : s₁.stopped (issuer i) = false)
    (ha : admittedIn i s₁.phase = false) : step s = .refused (.notAdmitted i) := by
  rw [step, hsel, issue_outside hs ha]

/-- Settles O1: a request that decodes is issued, and an admitted operation of an agent not stopped is run. -/
theorem stepRunsRequestedOperation : Obligations.StepRunsRequestedOperation :=
  fun _ _ _ _ hc hs hd hstopped ha => step_of_issue (select_request hc hs hd) hstopped ha

theorem run_succ {s t : State} (h : step s = .next t) (k : Nat) :
    Host.Core.run Sys2Proof.core (k + 1) s = Host.Core.run Sys2Proof.core k t := by
  have hcore : Sys2Proof.core.step s = .next t := h
  simp only [Host.Core.run, hcore]

/-- The operation of the phase is admitted in it, so it runs unless the main loop is stopped. -/
theorem step_of_issue_operation {s s₁ : State} (hsel : select s = issue s₁.phase.operation s₁)
    (hs : s₁.stopped .mainLoop = false) : step s = exec s₁.phase.operation s₁ :=
  step_of_issue hsel (by rw [issuer_operation]; exact hs) (admittedIn_operation _)

theorem step_main {s : State} {ms : List Move} (h : s.mainLoopRuns) (hs : s.schedule = .main :: ms) :
    step s = exec s.phase.operation (s.setSchedule ms) := by
  obtain ⟨hc, hstopped⟩ := h
  exact step_of_issue_operation (s₁ := s.setSchedule ms) (select_main hc hs) hstopped

/-- A move that nothing schedules is the tick's or, where the main loop is not stopped, the main loop's. -/
theorem select_free {s : State} (hc : s.configurationRefused = false) (hs : s.schedule = []) :
    select s = issue .timerTick s.drawTick.2 ∨
      s.stopped .mainLoop = false ∧ select s = issue s.phase.operation s.drawTick.2 := by
  rw [select_unscheduled hc hs]
  split
  case isTrue => exact .inl rfl
  case isFalse h => exact .inr ⟨Bool.eq_false_iff.2 fun e => h (by rw [e, Bool.or_true]), rfl⟩

/-- Settles O2: the move of the main loop issues the operation of the phase; a free move is a tick or that. -/
theorem stepRunsPhaseOperation : Obligations.StepRunsPhaseOperation := by
  refine ⟨fun s ms => step_main, fun s hc htimer hs => ?_⟩
  obtain hsel | ⟨hmain, hsel⟩ := select_free hc hs
  · exact .inl (step_of_issue hsel htimer rfl)
  · exact .inr ⟨hmain, step_of_issue_operation (s₁ := s.drawTick.2) hsel hmain⟩

/-- A readable request of an operation, or of an iteration, is an issue of that operation or of its first step. -/
theorem select_issuing {s : State} {p : Packet} {i : Instr} {ms : List Move} (hc : s.configurationRefused = false)
    (hs : s.schedule = .request p :: ms)
    (hp : readPacket p = .ok (.operation i) ∨ readPacket p = .ok .iteration ∧ i = .loopTop) :
    ∃ s₁, select s = issue i s₁ ∧ (∀ a, s₁.stopped a = s.stopped a) ∧ s₁.phase = s.phase := by
  obtain hp | ⟨hp, rfl⟩ := hp
  · exact ⟨s.setSchedule ms, select_line hc hs hp, fun _ => rfl, rfl⟩
  · exact ⟨_, (select_line hc hs hp).trans (request_iteration ms s), fun a => s.drawGaps_stopped a, s.drawGaps_phase⟩

/-- Settles O3: each stop is the branch of `select` or of `issue` that names it. -/
theorem stepStopsByName : Obligations.StepStopsByName := by
  refine ⟨fun s => step_configurationRefused, fun s p e ms hc hs he => ?unreadable, fun s ms hc hs hstopped => ?main,
    fun s ms hc hs hstopped => ?tick, fun s hc hs hstopped => ?free, fun s p i ms hc hs hp => ?request⟩
  case unreadable => rw [step, select_unreadable hc hs he]
  case main =>
    have hissuer := issuer_operation s.phase
    rw [step_of_issue_stopped (select_main hc hs) (by rw [hissuer]; exact hstopped), hissuer]
  case tick => exact step_of_issue_stopped (select_tick hc hs) hstopped
  case free =>
    obtain hsel | ⟨hmain, hsel⟩ := select_free hc hs
    · exact .inl (step_of_issue_stopped hsel hstopped)
    · exact .inr ⟨hmain, step_of_issue_operation (s₁ := s.drawTick.2) hsel hmain⟩
  case request =>
    obtain ⟨s₁, hsel, hagents, hphase⟩ := select_issuing hc hs hp
    exact ⟨fun hstopped => step_of_issue_stopped hsel ((hagents _).trans hstopped),
      fun hruns ha => step_of_issue_outside hsel ((hagents _).trans hruns) (hphase ▸ ha)⟩

/-- Settles O4: the words are closed, and the decoders compute. -/
theorem specFormsDecode : Obligations.SpecFormsDecode := by
  refine ⟨?_, ?_, ?_, ?_, ?_, rfl, rfl, rfl, rfl⟩ <;> decide +kernel

/-! ### Ticks, dispatches and host lines (R93, R171, R178 to R180) -/

theorem step_tick {s : State} {ms : List Move} (hc : s.configurationRefused = false) (ht : s.stopped .timer = false)
    (hs : s.schedule = .tick :: ms) : step s = .next { s with cycleDue := true, schedule := ms } :=
  step_of_issue (select_tick hc hs) ht rfl

/-- Settles O31: the tick's one write, run from the state whose move is taken off. -/
theorem timerTickResult : Obligations.TimerTickResult := ⟨fun _ => rfl, fun _ _ => step_tick⟩

/-- Settles O34: the drawn frame chooses the phase; the draw takes the next answer off the oracle. -/
theorem busCheckAndSleepResult : Obligations.BusCheckAndSleepResult := by
  refine ⟨fun s => congrArg Host.Outcome.next ?busCheck, fun s f fs h => by rw [State.drawFrame, h], fun s => rfl⟩
  case busCheck =>
    show loopBusCheck s = _
    cases hframe : s.drawFrame.1 with
    | none => ext1 <;> simp [hframe]
    | some f => ext1 <;> simp [hframe]

/-- The table after the entries of `d` at the channels `is` were written over `v`. -/
def writeEntries (d : Vector Count 32) (is : List (Fin 32)) (v : Vector Count 32) : Vector Count 32 :=
  is.foldl (fun v i => v.set i.val d[i.val] i.isLt) v

theorem writeEntries_getElem (d : Vector Count 32) (is : List (Fin 32)) (v : Vector Count 32) (j : Fin 32) :
    (writeEntries d is v)[j.val] = if j ∈ is then d[j.val] else v[j.val] := by
  induction is generalizing v with
  | nil => simp [writeEntries]
  | cons i is ih =>
    refine (ih _).trans ?_
    rw [Vector.getElem_set]
    by_cases hj : j ∈ is
    · simp [hj]
    · by_cases hi : i = j
      · simp [hi]
      · simp [hj, Ne.symm hi, Fin.val_ne_of_ne hi]

theorem writeEntries_all (d v : Vector Count 32) : writeEntries d (List.finRange 32) v = d := by
  refine Vector.ext fun j hj => ?_
  have hentry := writeEntries_getElem d (List.finRange 32) v ⟨j, hj⟩
  rwa [if_pos (List.mem_finRange _)] at hentry

theorem applyChanges_desired (d : Vector Count 32) (is : List (Fin 32)) (s : State) :
    s.applyChanges (is.map fun i => .desired i d[i.val]) = { s with desired := writeEntries d is s.desired } := by
  induction is generalizing s with
  | nil => rfl
  | cons i is ih => exact ih (s.applyChange (.desired i d[i.val]))

theorem applyChanges_cons (s : State) (c : HostChange) (cs : List HostChange) :
    s.applyChanges (c :: cs) = (s.applyChange c).applyChanges cs := rfl

/-- The changes that give the inputs any values. -/
def allInputs (rs : RunState) (ec : Nat) (d : Vector Count 32) : List HostChange :=
  .runState rs :: .errorCode ec :: (List.finRange 32).map fun i => .desired i d[i.val]

theorem applyChanges_allInputs (rs : RunState) (ec : Nat) (d : Vector Count 32) (s : State) :
    s.applyChanges (allInputs rs ec d) = { s with runState := rs, errorCode := ec, desired := d } := by
  rw [allInputs, applyChanges_cons, applyChanges_cons, applyChanges_desired, writeEntries_all]
  rfl

theorem loopDispatch_drawn {s : State} {c : List HostChange} {cs : List (List HostChange)} (h : s.oracle.changes = c :: cs)
    (f : Frame) : loopDispatch f s =
      (({ s with oracle := { s.oracle with changes := cs } } : State).applyChanges c).setPhase .top := by
  rw [loopDispatch, stackActs, State.drawChanges, h]

/-- Settles O35: only the stack's changes touch the inputs, and a list of changes can set every one of them. -/
theorem dispatchDrawsInputs : Obligations.DispatchDrawsInputs := by
  refine ⟨fun s f => ⟨(loopDispatch f s).runState, (loopDispatch f s).errorCode, (loopDispatch f s).desired,
    (loopDispatch f s).oracle, congrArg Host.Outcome.next ?frame⟩,
    fun rs ec d => ⟨allInputs rs ec d, fun s f cs h => congrArg Host.Outcome.next ?drawn⟩⟩
  case frame => ext1 <;> simp
  case drawn =>
    rw [loopDispatch_drawn h, applyChanges_allInputs]
    rfl

theorem step_of_leave {s t : State} (h : select s = .leave t) : step s = .next t := by rw [step, h]

theorem step_host {s : State} {p : Packet} {c : HostChange} {ms : List Move} (hc : s.configurationRefused = false)
    (hs : s.schedule = .request p :: ms) (hp : readPacket p = .ok (.host c)) : step s = .next { s with
      schedule := ms, oracle := { s.oracle with changes := (s.oracle.changes.headD [] ++ [c]) :: s.oracle.changes.tail } } := by
  rw [step_of_leave (select_line hc hs hp), State.announce]
  cases h : s.oracle.changes <;> simp [State.setSchedule, h]

/-- A dispatch for which one change was announced makes that change. -/
theorem step_dispatch_announced {s : State} {c : HostChange} {f : Frame} {ms : List Move} (hruns : s.mainLoopRuns)
    (hphase : s.phase = .dispatch f) (hs : s.schedule = .main :: ms) (hc : s.oracle.changes = [[c]]) :
    step s = .next ((({ s with schedule := ms, oracle := { s.oracle with changes := [] } } : State).applyChange c).setPhase .top) := by
  have hop : s.phase.operation = .loopDispatch f := by rw [hphase]; rfl
  rw [step_main hruns hs, hop]
  exact congrArg Host.Outcome.next (loopDispatch_drawn (s := s.setSchedule ms) hc f)

/-- Settles O37: the change is appended to those the stack makes at its next chance, and a dispatch is one. -/
theorem hostLinesAnnounceChanges : Obligations.HostLinesAnnounceChanges := by
  refine ⟨fun s p c ms => step_host, fun s p c f ms hruns hphase hs hp hnone => ?dispatch, fun s p ms hc hs hp => ?nothing⟩
  case nothing => exact step_of_leave (select_line hc hs hp)
  case dispatch =>
    have hfirst := step_host hruns.1 hs hp
    rw [hnone] at hfirst
    have hsecond := step_dispatch_announced (c := c) (f := f) (ms := ms)
      (s := { s with schedule := .main :: ms, oracle := { s.oracle with changes := [[c]] } }) hruns hphase rfl rfl
    have horacle : ({ s.oracle with changes := [] } : Oracle) = s.oracle := by rw [← hnone]
    have hstate : (({ s with schedule := ms, oracle := { s.oracle with changes := [] } } : State).applyChange c).setPhase .top =
        { s.applyChange c with phase := .top, schedule := ms } := by
      rw [horacle]
      cases c <;> rfl
    exact (run_succ hfirst 1).trans ((run_succ hsecond 0).trans (congrArg Host.Outcome.next hstate))

end Sys2Proof.Machine

/-! ### Runs of the main loop with ticks between its steps (R170, R180, R184, R186, R187) -/

namespace Sys2Proof.Machine

/-- The main-loop step at the phase (R170, R231). -/
def mainStep (s : State) : State :=
  match s.phase with
  | .startup => startup s
  | .top => loopTop s
  | .clear => loopClear s
  | .policy => loopPolicy s
  | .busCheck => loopBusCheck s
  | .dispatch f => loopDispatch f s
  | .sleep => loopSleep s

section
variable {s : State}

theorem mainStep_top (h : s.phase = .top) : mainStep s = loopTop s := by simp only [mainStep, h]
theorem mainStep_clear (h : s.phase = .clear) : mainStep s = loopClear s := by simp only [mainStep, h]
theorem mainStep_policy (h : s.phase = .policy) : mainStep s = loopPolicy s := by simp only [mainStep, h]
theorem mainStep_busCheck (h : s.phase = .busCheck) : mainStep s = loopBusCheck s := by simp only [mainStep, h]
theorem mainStep_dispatch {f : Frame} (h : s.phase = .dispatch f) : mainStep s = loopDispatch f s := by simp only [mainStep, h]
theorem mainStep_sleep (h : s.phase = .sleep) : mainStep s = loopSleep s := by simp only [mainStep, h]

end

theorem exec_operation (s : State) : exec s.phase.operation s = .next (mainStep s) := by
  unfold mainStep
  cases s.phase <;> rfl

/-- Settles O45: the operation of every phase answers `mainStep`. -/
theorem mainLoopAlwaysSteps : Obligations.MainLoopAlwaysSteps :=
  fun s ms h hs => ⟨_, (step_main h hs).trans (exec_operation (s.setSchedule ms))⟩

/-- The main loop is past `Startup`, and neither it nor the timer has been stopped. -/
structure Looping (s : State) : Prop where
  runs : s.mainLoopRuns
  timer : s.stopped .timer = false
  phase : s.phase ≠ .startup

theorem Looping.of_faults {s t : State} (h : Looping s) (hf : t.faults = s.faults) (hp : t.phase ≠ .startup) : Looping t := by
  obtain ⟨⟨hc, hm⟩, ht, -⟩ := h
  simp only [State.configurationRefused, State.stopped] at hc hm ht
  exact ⟨⟨by simpa only [State.configurationRefused, hf] using hc, by simpa only [State.stopped, hf] using hm⟩,
    by simpa only [State.stopped, hf] using ht, hp⟩

theorem Looping.after_setSchedule {s : State} (h : Looping s) (ms : List Move) : Looping (s.setSchedule ms) := h.of_faults rfl h.phase

theorem Looping.after_tick {s : State} (h : Looping s) : Looping s.raiseCycleDue := h.of_faults rfl h.phase

theorem Looping.after_ticksFall {s : State} (h : Looping s) (n : Nat) : Looping (ticksFall n s) :=
  h.of_faults (by simp) (by simpa using h.phase)

theorem loopBusCheck_phase_cases (s : State) : (loopBusCheck s).phase = .sleep ∨ ∃ f, (loopBusCheck s).phase = .dispatch f := by
  rw [loopBusCheck_phase]
  cases s.drawFrame.1 with
  | none => exact .inl rfl
  | some f => exact .inr ⟨f, rfl⟩

theorem ticksFall_loopBusCheck_phase_cases (n : Nat) (s : State) : (ticksFall n (loopBusCheck s)).phase = .sleep ∨
    ∃ f, (ticksFall n (loopBusCheck s)).phase = .dispatch f := by
  rw [ticksFall_phase]
  exact loopBusCheck_phase_cases s

theorem Looping.after_mainStep {s : State} (h : Looping s) : Looping (mainStep s) := by
  cases hp : s.phase with
  | startup => exact absurd hp h.phase
  | top => rw [mainStep_top hp]; exact h.of_faults (by simp) (by rw [loopTop_phase]; split <;> exact nofun)
  | clear => rw [mainStep_clear hp]; exact h.of_faults rfl nofun
  | policy => rw [mainStep_policy hp]; exact h.of_faults (by simp) (by simp)
  | busCheck =>
    rw [mainStep_busCheck hp]
    refine h.of_faults (by simp) fun e => ?_
    rcases loopBusCheck_phase_cases s with hs | ⟨f, hs⟩ <;> rw [e] at hs <;> cases hs
  | dispatch f => rw [mainStep_dispatch hp]; exact h.of_faults (by simp) (by simp)
  | sleep => rw [mainStep_sleep hp]; exact h.of_faults rfl nofun

/-- A function that commutes with changes of flag and schedule, and leaves the flag, does not read the schedule. -/
theorem setSchedule_of_withFlag {run : State → State} (h : ∀ s b ms, run (s.withFlag b ms) = (run s).withFlag b ms) {s : State}
    (hflag : (run s).cycleDue = s.cycleDue) (ms : List Move) : run (s.setSchedule ms) = (run s).setSchedule ms := by
  refine (h s s.cycleDue ms).trans ?_
  rw [← hflag]
  rfl

/-- The main-loop steps past `Startup` do not read the schedule. -/
theorem mainStep_setSchedule {s : State} (h : s.phase ≠ .startup) (ms : List Move) :
    mainStep (s.setSchedule ms) = (mainStep s).setSchedule ms := by
  cases hp : s.phase with
  | startup => exact absurd hp h
  | top => rw [mainStep_top hp, mainStep_top (s := s.setSchedule ms) hp, loopTop_eq_setPhase, loopTop_eq_setPhase]; rfl
  | clear => rw [mainStep_clear hp, mainStep_clear (s := s.setSchedule ms) hp]; rfl
  | policy =>
    rw [mainStep_policy hp, mainStep_policy (s := s.setSchedule ms) hp]
    exact setSchedule_of_withFlag loopPolicy_withFlag (by simp) ms
  | busCheck =>
    rw [mainStep_busCheck hp, mainStep_busCheck (s := s.setSchedule ms) hp]
    exact setSchedule_of_withFlag loopBusCheck_withFlag (by simp) ms
  | dispatch f =>
    rw [mainStep_dispatch hp, mainStep_dispatch (s := s.setSchedule ms) hp]
    exact setSchedule_of_withFlag (loopDispatch_withFlag f) (by simp) ms
  | sleep => rw [mainStep_sleep hp, mainStep_sleep (s := s.setSchedule ms) hp]; rfl

theorem step_scheduled_main {s : State} (h : Looping s) (ms : List Move) :
    step (s.setSchedule (.main :: ms)) = .next ((mainStep s).setSchedule ms) := by
  rw [step_main (h.after_setSchedule _).runs rfl, ← mainStep_setSchedule h.phase]
  exact exec_operation (s.setSchedule ms)

theorem step_scheduled_tick {s : State} (h : Looping s) (ms : List Move) :
    step (s.setSchedule (.tick :: ms)) = .next (s.raiseCycleDue.setSchedule ms) :=
  step_tick (h.after_setSchedule _).runs.1 (h.after_setSchedule _).timer rfl

theorem run_add {s t : State} {m : Nat} (h : Host.Core.run Sys2Proof.core m s = .next t) (n : Nat) :
    Host.Core.run Sys2Proof.core (m + n) s = Host.Core.run Sys2Proof.core n t := by
  induction m generalizing s with
  | zero => cases h; rw [Nat.zero_add]
  | succ m ih =>
    have hstep : Sys2Proof.core.step s = step s := rfl
    simp only [Host.Core.run, hstep] at h
    split at h
    · rename_i u hu
      rw [Nat.add_right_comm, run_succ hu]
      exact ih h
    · cases h
    · cases h

theorem run_mainAfterTicks {s : State} (h : Looping s) (n : Nat) (ms : List Move) :
    Host.Core.run Sys2Proof.core (mainAfterTicks n).length (s.setSchedule (mainAfterTicks n ++ ms)) =
      .next ((mainStep (ticksFall n s)).setSchedule ms) := by
  induction n generalizing s with
  | zero => exact run_succ (step_scheduled_main h ms) 0
  | succ n ih => exact (run_succ (step_scheduled_tick h _) _).trans (ih h.after_tick)

/-- Main-loop steps one after another, each after the given number of ticks. -/
def mainSteps : List Nat → State → State
  | [], s => s
  | n :: ns, s => mainSteps ns (mainStep (ticksFall n s))

theorem run_mainSteps {s : State} (h : Looping s) (ns : List Nat) (ms : List Move) :
    Host.Core.run Sys2Proof.core (ns.flatMap mainAfterTicks).length (s.setSchedule (ns.flatMap mainAfterTicks ++ ms)) =
      .next ((mainSteps ns s).setSchedule ms) := by
  induction ns generalizing s with
  | nil => rfl
  | cons n ns ih =>
    rw [List.flatMap_cons, List.length_append, List.append_assoc, run_add (run_mainAfterTicks h n _)]
    exact ih (h.after_ticksFall n).after_mainStep

/-! #### One pass of the main loop -/

/-- The ticks before each step of a pass after its `Top`. -/
def TickGaps.list (g : TickGaps) (due : Bool) : List Nat :=
  if due then [g.afterTop, g.afterClear, g.afterPolicy, g.afterBusCheck] else [g.afterTop, g.afterBusCheck]

theorem iterationRest_eq (g : TickGaps) (due : Bool) : iterationRest g due = (TickGaps.list g due).flatMap mainAfterTicks := by
  cases due <;> simp [iterationRest, TickGaps.list]

/-- The state a pass checks the bus in: after `Top`, and with a cycle due after `Clear` and `Policy` (R184). -/
def beforeBusCheck (g : TickGaps) (s : State) : State :=
  let s₁ := ticksFall g.afterTop (loopTop s)
  if s₁.phase = .clear then ticksFall g.afterPolicy (loopPolicy (ticksFall g.afterClear (loopClear s₁))) else s₁

/-- The last step of a pass is that of the phase the bus check led to. -/
theorem iteration_eq_mainStep (g : TickGaps) (s : State) :
    iteration g s = mainStep (ticksFall g.afterBusCheck (loopBusCheck (beforeBusCheck g s))) := by
  rcases ticksFall_loopBusCheck_phase_cases g.afterBusCheck (beforeBusCheck g s) with h | ⟨f, h⟩
  · rw [mainStep_sleep h]
    simp only [beforeBusCheck] at h ⊢
    simp only [iteration, h]
  · rw [mainStep_dispatch h]
    simp only [beforeBusCheck] at h ⊢
    simp only [iteration, h]

theorem beforeBusCheck_due {s : State} (h : s.cycleDue = true) (g : TickGaps) : beforeBusCheck g s =
    ticksFall g.afterPolicy (loopPolicy (ticksFall g.afterClear (loopClear (ticksFall g.afterTop (loopTop s))))) :=
  if_pos (by simp [h])

theorem beforeBusCheck_notDue {s : State} (h : s.cycleDue = false) (g : TickGaps) :
    beforeBusCheck g s = ticksFall g.afterTop (loopTop s) :=
  if_neg (by simp [h])

theorem iteration_eq_mainSteps {s : State} (h : s.phase = .top) (g : TickGaps) :
    iteration g s = mainSteps (0 :: TickGaps.list g s.cycleDue) s := by
  have htop : mainStep (ticksFall 0 s) = loopTop s := mainStep_top h
  rw [iteration_eq_mainStep, mainSteps, htop]
  cases hdue : s.cycleDue with
  | false =>
    simp only [TickGaps.list, mainSteps, beforeBusCheck_notDue hdue, Bool.false_eq_true, if_false]
    rw [mainStep_busCheck (s := ticksFall g.afterTop (loopTop s)) (by simp [hdue])]
  | true =>
    simp only [TickGaps.list, mainSteps, beforeBusCheck_due hdue, if_true]
    rw [mainStep_clear (s := ticksFall g.afterTop (loopTop s)) (by simp [hdue]),
      mainStep_policy (s := ticksFall g.afterClear _) (by simp),
      mainStep_busCheck (s := ticksFall g.afterPolicy (loopPolicy _)) (by simp)]

theorem iteration_phase (g : TickGaps) (s : State) : (iteration g s).phase = .top := by
  rw [iteration_eq_mainStep]
  rcases ticksFall_loopBusCheck_phase_cases g.afterBusCheck (beforeBusCheck g s) with h | ⟨f, h⟩
  · rw [mainStep_sleep h]; rfl
  · rw [mainStep_dispatch h, loopDispatch_phase]

theorem run_iteration {s : State} (h : Looping s) (hp : s.phase = .top) (g : TickGaps) (ms : List Move) :
    Host.Core.run Sys2Proof.core (1 + (iterationRest g s.cycleDue).length)
        (s.setSchedule (.main :: (iterationRest g s.cycleDue ++ ms))) =
      .next ((iteration g s).setSchedule ms) := by
  rw [iteration_eq_mainSteps hp, iterationRest_eq, Nat.add_comm]
  exact run_mainSteps h (0 :: TickGaps.list g s.cycleDue) ms

theorem drawGaps_setSchedule (s : State) (ms : List Move) :
    (s.setSchedule ms).drawGaps = (s.drawGaps.1, s.drawGaps.2.setSchedule ms) := by
  simp only [State.drawGaps, State.setSchedule]
  cases s.oracle.gaps <;> rfl

/-- A requested iteration begins with the step of its `Top`, the rest before everything else scheduled (R94). -/
theorem step_iteration_request {s : State} (h : Looping s) (hp : s.phase = .top) {p : Packet}
    (hread : readPacket p = .ok .iteration) (ms : List Move) : step (s.setSchedule (.request p :: ms)) =
      .next ((loopTop s.drawGaps.2).setSchedule (iterationRest s.drawGaps.1 s.cycleDue ++ ms)) := by
  have hsel := (select_line (s := s.setSchedule (.request p :: ms)) h.runs.1 rfl hread).trans (request_iteration ms _)
  rw [drawGaps_setSchedule] at hsel
  have hrun := step_of_issue hsel ((s.drawGaps_stopped _).trans h.runs.2) (by simp [admittedIn, issuePhase, hp])
  refine hrun.trans (congrArg Host.Outcome.next ?_)
  rw [loopTop_eq_setPhase, loopTop_eq_setPhase]
  rfl

/-- Settles O36: a pass is `mainSteps` over its ticks, which the schedule spells, and a request schedules just that. -/
theorem iterationIsMainLoopSteps : Obligations.IterationIsMainLoopSteps := by
  have looping {s : State} (hruns : s.mainLoopRuns) (ht : s.stopped .timer = false) (hp : s.phase = .top) : Looping s :=
    ⟨hruns, ht, hp ▸ nofun⟩
  refine ⟨fun s g ms hruns ht hp => ⟨run_iteration (looping hruns ht hp) hp g ms, iteration_phase g s⟩,
    fun s p ms hruns ht hp hread => ?request, fun a b c d => ?spelled, fun s g gs h => by rw [State.drawGaps, h]⟩
  case request =>
    have hloop := looping hruns ht hp
    have hdrawn : Looping s.drawGaps.2 := hloop.of_faults (by simp) (by simpa using hloop.phase)
    have hp' : s.drawGaps.2.phase = .top := by simpa using hp
    have hrun := run_iteration hdrawn hp' s.drawGaps.1 ms
    rw [State.drawGaps_cycleDue, Nat.add_comm, run_succ (step_scheduled_main hdrawn _), mainStep_top hp'] at hrun
    rw [Nat.add_comm]
    exact (run_succ (step_iteration_request hloop hp hread ms) _).trans hrun
  case spelled => simp [iterationRest, mainAfterTicks]

/-! #### Evaluations and ticks (R186) -/

/-- How many evaluations may still come without a tick: one in `Policy`, one for a cycle that is due or just taken up. -/
def credit : Phase → Bool → Nat
  | .policy, due => due.toNat + 1
  | .clear, _ => 1
  | _, due => due.toNat

theorem credit_tick (p : Phase) (due : Bool) : credit p true ≤ credit p due + 1 := by
  cases p <;> simp [credit]

/-- An evaluation takes one off the credit, a tick adds one at most, and nothing else adds any. -/
theorem Effect.credit_le {i : Instr} {s t : State} (h : Effect i s t) (ha : admittedIn i s.phase = true) :
    credit t.phase t.cycleDue + (if i = .loopPolicy then 1 else 0) ≤
      credit s.phase s.cycleDue + if i = .timerTick then 1 else 0 := by
  have hissued {q : Phase} (hi : issuePhase i = some q) : s.phase = q := (admittedIn_iff hi _).1 ha
  cases h with
  | recorded _ _ _ _ hi =>
    have hne : i ≠ .loopPolicy := by rintro rfl; cases hi
    simp [hne]
  | timerTick => simpa using credit_tick s.phase s.cycleDue
  | loopTop => cases hdue : s.cycleDue <;> simp [hissued rfl, hdue, credit]
  | loopClear => simp [hissued rfl, credit]
  | loopPolicy => simp [hissued rfl, credit]
  | loopBusCheck =>
    rcases loopBusCheck_phase_cases s with hs | ⟨f, hs⟩ <;> rw [hs, hissued rfl] <;> simp [credit]
  | loopDispatch | loopSleep | startup => simp [hissued rfl, credit]
  | _ => simp

theorem step_credit {s t : State} (h : step s = .next t) :
    credit t.phase t.cycleDue + (if s.nextOperation = some .loopPolicy then 1 else 0) ≤
      credit s.phase s.cycleDue + if s.nextOperation = some .timerTick then 1 else 0 := by
  obtain ⟨i, ms, o, hop, -, ha, -, -, he⟩ | ⟨p, ms, o, hop, -, rfl⟩ := step_next h
  · simpa [hop] using he.credit_le ha
  · simp [hop]

theorem timesRun_next {s t : State} (h : step s = .next t) (i : Instr) (k : Nat) :
    timesRun i (k + 1) s = (if s.nextOperation = some i then 1 else 0) + timesRun i k t := by
  rw [timesRun, h]

/-- A step that stops ends the count. -/
theorem timesRun_stop {s : State} (h : ∀ t, step s ≠ .next t) (i : Instr) (k : Nat) :
    timesRun i (k + 1) s = if s.nextOperation = some i then 1 else 0 := by
  cases hs : step s with
  | next t => exact absurd hs (h t)
  | fault r => rw [timesRun, hs]; rfl
  | refused r => rw [timesRun, hs]; rfl

theorem step_of_nextOperation_loopPolicy {s : State} (h : s.nextOperation = some .loopPolicy) : ∃ t, step s = .next t := by
  obtain ⟨s₁, hsel⟩ := nextOperation_eq_some.1 h
  exact ⟨_, step_of_select hsel⟩

theorem evaluations_le_ticks_add_credit (k : Nat) (s : State) :
    timesRun .loopPolicy k s ≤ timesRun .timerTick k s + credit s.phase s.cycleDue := by
  induction k generalizing s with
  | zero => exact Nat.zero_le _
  | succ k ih =>
    by_cases h : ∃ t, step s = .next t
    · obtain ⟨t, ht⟩ := h
      rw [timesRun_next ht, timesRun_next ht]
      have hcredit := step_credit ht
      have hrest := ih t
      omega
    · have hno : s.nextOperation ≠ some .loopPolicy := fun hop => h (step_of_nextOperation_loopPolicy hop)
      rw [timesRun_stop (not_exists.1 h), if_neg hno]
      exact Nat.zero_le _

theorem operation_ne_policyEval (p : Phase) : p.operation ≠ .policyEval := by cases p <;> exact nofun

theorem timesRun_policyEval_undisturbed {s : State} (h : s.undisturbed) (k : Nat) : timesRun .policyEval k s = 0 := by
  induction k generalizing s with
  | zero => rfl
  | succ k ih =>
    have hno : s.nextOperation ≠ some .policyEval := fun hop =>
      (undisturbed_nextOperation h hop).elim nofun fun e => operation_ne_policyEval _ e.symm
    by_cases hstep : ∃ t, step s = .next t
    · obtain ⟨t, ht⟩ := hstep
      rw [timesRun_next ht, if_neg hno, ih (step_undisturbed h ht)]
    · rw [timesRun_stop (not_exists.1 hstep), if_neg hno]

/-- Settles O46: before startup with no cycle due the credit is 0. -/
theorem evaluationsNeverOutnumberTicks : Obligations.EvaluationsNeverOutnumberTicks := by
  intro s k hp hdue
  have hle := evaluations_le_ticks_add_credit k s
  rw [hp, hdue] at hle
  exact ⟨hle, fun h => timesRun_policyEval_undisturbed h k⟩

/-! #### A due cycle is served (R187) -/

/-- The main-loop steps from a phase up to and with the next evaluation of a cycle that is due. -/
def stepsToEvaluation : Phase → Nat
  | .policy => 1
  | .clear => 2
  | .top => 3
  | .dispatch _ => 4
  | .sleep => 4
  | .busCheck => 5
  | .startup => 0

theorem stepsToEvaluation_pos {p : Phase} (h : p ≠ .startup) : 0 < stepsToEvaluation p := by
  cases p with
  | startup => exact absurd rfl h
  | _ => exact Nat.succ_pos _

theorem stepsToEvaluation_le (p : Phase) : stepsToEvaluation p ≤ 5 := by cases p <;> simp [stepsToEvaluation]

/-- A cycle is due or about to be evaluated. -/
def State.pending (s : State) : Prop := s.cycleDue = true ∨ s.phase = .policy

/-- A main-loop step short of the evaluation comes one nearer to it, and the cycle stays pending. -/
theorem mainStep_pending {s : State} (h : s.pending) (hs : s.phase ≠ .startup) (hp : s.phase ≠ .policy) :
    (mainStep s).pending ∧ stepsToEvaluation (mainStep s).phase + 1 ≤ stepsToEvaluation s.phase := by
  have hdue : s.cycleDue = true := h.resolve_right hp
  cases hq : s.phase with
  | startup => exact absurd hq hs
  | policy => exact absurd hq hp
  | top => rw [mainStep_top hq]; simp [State.pending, hdue, stepsToEvaluation]
  | clear => rw [mainStep_clear hq]; simp [State.pending, stepsToEvaluation]
  | busCheck =>
    rw [mainStep_busCheck hq]
    rcases loopBusCheck_phase_cases s with hs | ⟨f, hs⟩ <;> rw [hs] <;> simp [State.pending, hdue, stepsToEvaluation]
  | dispatch f => rw [mainStep_dispatch hq]; simp [State.pending, hdue, stepsToEvaluation]
  | sleep => rw [mainStep_sleep hq]; simp [State.pending, hdue, stepsToEvaluation]

theorem nextOperation_scheduled_main {s : State} (h : Looping s) (ms : List Move) :
    (s.setSchedule (.main :: ms)).nextOperation = some s.phase.operation := by
  refine nextOperation_eq_some.2 ⟨_, (select_main (h.after_setSchedule _).runs.1 rfl).trans (issue_admitted ?_ (admittedIn_operation _))⟩
  rw [issuer_operation]
  exact h.runs.2

theorem evaluation_of_pending {s : State} (h : Looping s) (hpending : s.pending) {ms : List Move}
    (hms : ∀ m ∈ ms, m = .tick ∨ m = .main) (hcount : stepsToEvaluation s.phase ≤ ms.count .main) :
    1 ≤ timesRun .loopPolicy ms.length (s.setSchedule ms) := by
  induction ms generalizing s with
  | nil => exact absurd hcount (Nat.not_le.2 (stepsToEvaluation_pos h.phase))
  | cons m ms ih =>
    have hrest (m : Move) (hm : m ∈ ms) : m = .tick ∨ m = .main := hms m (List.mem_cons_of_mem _ hm)
    rw [List.length_cons]
    rcases hms m List.mem_cons_self with rfl | rfl
    · rw [timesRun_next (step_scheduled_tick h ms)]
      exact (ih h.after_tick (.inl rfl) hrest (by simpa using hcount)).trans (Nat.le_add_left _ _)
    · rw [timesRun_next (step_scheduled_main h ms), nextOperation_scheduled_main h]
      by_cases hp : s.phase = .policy
      · rw [hp]
        exact Nat.le_add_right 1 _
      · obtain ⟨hpending, hnearer⟩ := mainStep_pending hpending h.phase hp
        rw [List.count_cons_self] at hcount
        exact (ih h.after_mainStep hpending hrest (by omega)).trans (Nat.le_add_left _ _)

/-- Settles O47: no phase past `Startup` is more than five steps from the evaluation of a due cycle. -/
theorem dueCycleIsServed : Obligations.DueCycleIsServed := by
  intro s ms hruns ht hp hdue hms hcount
  exact evaluation_of_pending ⟨hruns, ht, hp⟩ (.inl hdue) hms ((stepsToEvaluation_le s.phase).trans hcount)

end Sys2Proof.Machine

/-! ### Byte order and the reading of the history (R50, R91) -/

namespace Sys2Proof.Machine

/-- Settles O48: the two bytes of a count are its remainder and its quotient by 256. -/
theorem countsAreLittleEndian : Obligations.CountsAreLittleEndian := by
  intro v
  refine ⟨by rw [le2, lo8_eq, hi8_eq], ofLe2_lo8_hi8 v, ?_⟩
  rw [← ofLe2_toNat, ofLe2_lo8_hi8]

theorem lo8_ofLe2 (a b : Byte) : lo8 (ofLe2 a b) = a := by
  apply BitVec.eq_of_toNat_eq
  have := a.isLt
  rw [lo8_eq, BitVec.toNat_ofNat, ofLe2_toNat]
  omega

theorem hi8_ofLe2 (a b : Byte) : hi8 (ofLe2 a b) = b := by
  apply BitVec.eq_of_toNat_eq
  have := a.isLt
  have := b.isLt
  rw [hi8_eq, BitVec.toNat_ofNat, ofLe2_toNat]
  omega

theorem chanReg_of_channelOfReg {p : Params} {r : Byte} {c : Nat} (h : channelOfReg p r = some c) : chanReg p c = r := by
  obtain ⟨-, hr⟩ := channelOfReg_eq_some.1 h
  rw [chanReg, Config.stride, ← hr, BitVec.ofNat_toNat, BitVec.setWidth_eq]

/-- A 5-byte write read as a channel's is the burst that gives the channel that pair. -/
theorem burstEvent_of_classify {p : Params} {a : BusAddr} {r b₁ b₂ b₃ b₄ : Byte} {c : Nat} {on off : Count}
    (h : classify p (.write a [r, b₁, b₂, b₃, b₄]) = .setChannelOutput a c on off) :
    c < 16 ∧ .write a [r, b₁, b₂, b₃, b₄] = burstEvent p a c ⟨on, off⟩ := by
  cases hc : channelOfReg p r with
  | none => simp [classify, hc] at h
  | some c' =>
    simp only [classify, hc, EventClass.setChannelOutput.injEq, true_and] at h
    obtain ⟨rfl, rfl, rfl⟩ := h
    refine ⟨(channelOfReg_eq_some.1 hc).1, ?_⟩
    rw [burstEvent_eq, chanReg_of_channelOfReg hc]
    simp [countBytes, le2, lo8_ofLe2, hi8_ofLe2]

/-- Settles O49: a burst is read by the channel its register starts and by its counts, low byte first; any other frame of the driver
by its length. -/
theorem classifyReadsBackTheDriver : Obligations.ClassifyReadsBackTheDriver := by
  refine ⟨fun p a r v => ⟨rfl, rfl⟩, fun p a c on off hp hc => classify_burstEvent hp hc a ⟨on, off⟩, fun p a old v => rfl,
    fun p a r c b₁ b₂ b₃ b₄ on off h => burstEvent_of_classify h, fun p a r b₁ b₂ b₃ b₄ h => ?_⟩
  simp [classify, channelOfReg_eq_none h]

end Sys2Proof.Machine

/-! ### Reset (R39, R230) -/

namespace Sys2Proof.Machine

theorem ofParams_cache (p : Params) (i : Fin 32) : (State.ofParams p).cache[i.val] = ⟨0, 0⟩ := Vector.getElem_replicate ..

/-- Settles O5: the fields of `State.ofParams`. -/
theorem resetState : Obligations.ResetState :=
  ⟨rfl, rfl, ofParams_cache _, rfl, rfl, rfl, rfl, rfl, fun _ => rfl⟩

theorem ofParams_inv {p : Params} (h : p.ok = true) : Inv (State.ofParams p) where
  params := h
  address := rfl
  onZero i := by rw [ofParams_cache]
  offMasked i := by rw [ofParams_cache]; exact Nat.zero_le _
  unwired i _ := ofParams_cache p i
  chip := ⟨Memory.wf_empty, nofun⟩
  bus := nofun
  ctrl := .inl ⟨rfl, rfl⟩
  record := rfl
  running hp := absurd rfl hp
  clearDue hp := nomatch hp

/-- Settles O51: reset is `State.ofParams` of an admitted set, and so is an admitted configuration. -/
theorem resetMeetsInvariant : Obligations.ResetMeetsInvariant :=
  ⟨ofParams_inv Config.params.admitted, .inl ⟨rfl, rfl, rfl⟩, fun _ h => configure_admitted h ▸ ofParams_inv h⟩

end Sys2Proof.Machine
